-- ==== Sys2Proof/Word.lean ====
section
/-! DEFINITION. The word types of the hardware: all values are unsigned (00_scope.md R9). -/

namespace Sys2Proof

/-- A byte: the unit of host buffer memory (20_memory.md R71) and of a bus phase (R76). -/
abbrev Byte := BitVec 8

/-- A 32-bit word: a gate word or a register (10_state.md R28, R50). -/
abbrev Word := BitVec 32

/-- A command word: every operation is one 64-bit word (30_encoding.md R90). -/
abbrev Command := BitVec 64

end Sys2Proof
end

