-- ==== Sys2Proof/Syntax.lean ====
section
/-! DEFINITION. The names of 10_state.md R21 and the operation set of 30_encoding.md R92: one constructor of
`Instr` for each of the 17 rows of the opcode table. A field whose every code is defined is a name (SEL, DIR);
a field that can hold a code the operation answers with an error (SRC, STATE, PSRC, BUS; R107) stays bits;
a bit number, a count, a length and a host address are numbers, bounded by `Instr.WellFormed`. -/

namespace Sys2Proof

/-- The five clock sources, `Src` of 10_state.md R21. -/
inductive Src where
  | hsi | hse | pll | plli2s | pllsai
  deriving DecidableEq, Repr, Inhabited

/-- The four system-clock selections, `Sel` of 10_state.md R21. -/
inductive Sel where
  | hsi | hse | pllp | pllr
  deriving DecidableEq, Repr, Inhabited

/-- The five gated buses, `Bus` of 10_state.md R21. -/
inductive Bus where
  | ahb1 | ahb2 | ahb3 | apb1 | apb2
  deriving DecidableEq, Repr, Inhabited

/-- The I2C transfer direction, `Dir` of 10_state.md R21. -/
inductive Dir where
  | w | r
  deriving DecidableEq, Repr, Inhabited

/-- The operation set (30_encoding.md R92, formats R93 to R95). -/
inductive Instr where
  /-- RCC.CLKSTATE src, state (40_rcc_clock.md R120). -/
  | clkState (src : BitVec 3) (state : BitVec 2)
  /-- RCC.PLLCFG (40_rcc_clock.md R121); `nul` is the NUL bit: the config argument is absent. -/
  | pllCfg (m : BitVec 6) (n : BitVec 9) (p : BitVec 2) (psrc : BitVec 2) (q : BitVec 4) (r : BitVec 3) (nul : Bool)
  /-- RCC.SETSYSCLK sel (40_rcc_clock.md R122). -/
  | setSysClk (sel : Sel)
  /-- RCC.GETSYSCLK (40_rcc_clock.md R123). -/
  | getSysClk
  /-- RCC.AHBPRE code (41_rcc_bus.md R140). -/
  | ahbPre (code : Byte)
  /-- RCC.APB1PRE code (41_rcc_bus.md R141). -/
  | apb1Pre (code : Byte)
  /-- RCC.APB2PRE code (41_rcc_bus.md R142). -/
  | apb2Pre (code : Byte)
  /-- RCC.PERIPH_EN bus, bit (41_rcc_bus.md R143). -/
  | periphEn (bus : BitVec 3) (bit : Nat)
  /-- RCC.PERIPH_DIS bus, bit (41_rcc_bus.md R144). -/
  | periphDis (bus : BitVec 3) (bit : Nat)
  /-- DELAY.MS n (42_delay.md R160). -/
  | delayMs (n : Nat)
  /-- DELAY.US n (42_delay.md R161). -/
  | delayUs (n : Nat)
  /-- I2C.INIT freq, own, am (43_i2c_master.md R171). -/
  | i2cInit (freq : BitVec 6) (own : BitVec 10) (am : BitVec 1)
  /-- I2C.START addr, dir (43_i2c_master.md R173). -/
  | i2cStart (addr : BitVec 7) (dir : Dir)
  /-- I2C.RESTART addr, dir (43_i2c_master.md R174). -/
  | i2cRestart (addr : BitVec 7) (dir : Dir)
  /-- I2C.WRITE buf, len (43_i2c_master.md R175). -/
  | i2cWrite (buf len : Nat)
  /-- I2C.READ buf, len (43_i2c_master.md R176). -/
  | i2cRead (buf len : Nat)
  /-- I2C.STOP (43_i2c_master.md R177). -/
  | i2cStop
  deriving DecidableEq, Repr, Inhabited

end Sys2Proof
end

