-- ==== Sys2Proof/WellFormed.lean ====
section
/-! DEFINITION. Which terms of `Instr` are operations a command word can hold: every number fits its field
(30_encoding.md R93 to R95). Fields kept as bits or names fit by their type. -/

namespace Sys2Proof

/-- Every numeric operand fits the field the format gives it: BIT is 8 bits (R93), LEN 16 and BUF 32 bits (R94),
the delay count N 32 bits (R95). -/
abbrev Instr.WellFormed : Instr → Prop
  | .clkState _ _ => True
  | .pllCfg _ _ _ _ _ _ _ => True
  | .setSysClk _ => True
  | .getSysClk => True
  | .ahbPre _ => True
  | .apb1Pre _ => True
  | .apb2Pre _ => True
  | .periphEn _ bit => bit < 2 ^ 8
  | .periphDis _ bit => bit < 2 ^ 8
  | .delayMs n => n < 2 ^ 32
  | .delayUs n => n < 2 ^ 32
  | .i2cInit _ _ _ => True
  | .i2cStart _ _ => True
  | .i2cRestart _ _ => True
  | .i2cWrite buf len => buf < 2 ^ 32 ∧ len < 2 ^ 16
  | .i2cRead buf len => buf < 2 ^ 32 ∧ len < 2 ^ 16
  | .i2cStop => True

end Sys2Proof
end

