-- ==== Sys2Proof/Decode.lean ====
section
/-! DEFINITION. The decoder and the encoder of command words (30_encoding.md R90 to R107): total on every 64-bit
word, rejecting by name. A word decodes to an operation exactly when `w & mask = match` for its row (R91). -/

namespace Sys2Proof

/-- Why a word decodes to no operation (30_encoding.md R106). -/
inductive DecodeError where
  /-- A UNIT other than 0x01, 0x02, 0x03. -/
  | unknownUnit (unit : Byte)
  /-- An OP the unit does not define. -/
  | unknownOp (unit op : Byte)
  /-- A reserved bit of a defined UNIT:OP is set. -/
  | reservedBit (unit op : Byte)
  deriving DecidableEq, Repr

/-- The field of `len` bits whose lowest bit is `lo` (00_scope.md R9, 30_encoding.md R102). -/
def field (w : Command) (lo len : Nat) : BitVec len := w.extractLsb' lo len

/-- A field put at bit `lo` of a command word. -/
def place {n : Nat} (v : BitVec n) (lo : Nat) : Command := v.setWidth 64 <<< lo

/-- SEL codes (30_encoding.md R98). -/
def Sel.ofCode (c : BitVec 2) : Sel :=
  if c = 0 then .hsi else if c = 1 then .hse else if c = 2 then .pllp else .pllr

/-- SEL codes (30_encoding.md R98). -/
def Sel.code : Sel → BitVec 2
  | .hsi => 0 | .hse => 1 | .pllp => 2 | .pllr => 3

/-- DIR codes: 0 write, 1 read (30_encoding.md R101). -/
def Dir.ofCode (c : BitVec 1) : Dir := if c = 0 then .w else .r

/-- DIR codes: 0 write, 1 read (30_encoding.md R101, 20_memory.md R75). -/
def Dir.code : Dir → BitVec 1
  | .w => 0 | .r => 1

/-- A row of the opcode table: the bits that are fixed, their values, and the operation its fields make. -/
structure Row where
  mnemonic : String
  mask : Command
  mtch : Command
  build : Command → Instr

/-- The rows of UNIT 0x01 (30_encoding.md R92, R93). -/
def rccRows : List Row := [
  ⟨"RCC.CLKSTATE", 0xFFFFFFFFFFFFFFC8#64, 0x0100000000000000#64, fun w => .clkState (field w 0 3) (field w 4 2)⟩,
  ⟨"RCC.PLLCFG", 0xFFFF7FFF803C8000#64, 0x0101000000000000#64, fun w =>
    .pllCfg (field w 0 6) (field w 6 9) (field w 16 2) (field w 22 2) (field w 24 4) (field w 28 3) (w.getLsbD 47)⟩,
  ⟨"RCC.SETSYSCLK", 0xFFFFFFFFFFFFFFFC#64, 0x0102000000000000#64, fun w => .setSysClk (Sel.ofCode (field w 0 2))⟩,
  ⟨"RCC.GETSYSCLK", 0xFFFFFFFFFFFFFFFF#64, 0x0103000000000000#64, fun _ => .getSysClk⟩,
  ⟨"RCC.AHBPRE", 0xFFFFFFFFFFFFFF00#64, 0x0104000000000000#64, fun w => .ahbPre (field w 0 8)⟩,
  ⟨"RCC.APB1PRE", 0xFFFFFFFFFFFFFF00#64, 0x0105000000000000#64, fun w => .apb1Pre (field w 0 8)⟩,
  ⟨"RCC.APB2PRE", 0xFFFFFFFFFFFFFF00#64, 0x0106000000000000#64, fun w => .apb2Pre (field w 0 8)⟩,
  ⟨"RCC.PERIPH_EN", 0xFFFFFFFFFFFF00F8#64, 0x0107000000000000#64, fun w => .periphEn (field w 0 3) (field w 8 8).toNat⟩,
  ⟨"RCC.PERIPH_DIS", 0xFFFFFFFFFFFF00F8#64, 0x0108000000000000#64, fun w => .periphDis (field w 0 3) (field w 8 8).toNat⟩]

/-- The rows of UNIT 0x03 (30_encoding.md R92, R95). -/
def delayRows : List Row := [
  ⟨"DELAY.MS", 0xFFFFFFFF00000000#64, 0x0300000000000000#64, fun w => .delayMs (field w 0 32).toNat⟩,
  ⟨"DELAY.US", 0xFFFFFFFF00000000#64, 0x0301000000000000#64, fun w => .delayUs (field w 0 32).toNat⟩]

/-- The rows of UNIT 0x02 (30_encoding.md R92, R94). -/
def i2cRows : List Row := [
  ⟨"I2C.INIT", 0xFFFFFFFF7C00FFC0#64, 0x0200000000000000#64, fun w =>
    .i2cInit (field w 0 6) (field w 16 10) (field w 31 1)⟩,
  ⟨"I2C.START", 0xFFFFFFFFFFFFFE80#64, 0x0201000000000000#64, fun w =>
    .i2cStart (field w 0 7) (Dir.ofCode (field w 8 1))⟩,
  ⟨"I2C.RESTART", 0xFFFFFFFFFFFFFE80#64, 0x0202000000000000#64, fun w =>
    .i2cRestart (field w 0 7) (Dir.ofCode (field w 8 1))⟩,
  ⟨"I2C.WRITE", 0xFFFF000000000000#64, 0x0203000000000000#64, fun w =>
    .i2cWrite (field w 16 32).toNat (field w 0 16).toNat⟩,
  ⟨"I2C.READ", 0xFFFF000000000000#64, 0x0204000000000000#64, fun w =>
    .i2cRead (field w 16 32).toNat (field w 0 16).toNat⟩,
  ⟨"I2C.STOP", 0xFFFFFFFFFFFFFFFF#64, 0x0205000000000000#64, fun _ => .i2cStop⟩]

/-- The opcode table, in its own order. -/
def opcodeTable : List Row := rccRows ++ delayRows ++ i2cRows

/-- The word has the row's fixed bits (30_encoding.md R91). -/
def Row.hits (r : Row) (w : Command) : Bool := (w &&& r.mask) == r.mtch

/-- How many OP codes, from 0x00 on, a UNIT defines (30_encoding.md R106). -/
def opCount (unit : Byte) : Nat :=
  if unit = 1 then 9 else if unit = 2 then 6 else if unit = 3 then 2 else 0

/-- The name of the rejection of a word that matches no row. -/
def rejection (w : Command) : DecodeError :=
  let unit := field w 56 8
  let op := field w 48 8
  if opCount unit = 0 then .unknownUnit unit
  else if opCount unit ≤ op.toNat then .unknownOp unit op
  else .reservedBit unit op

/-- Decoding, total on every 64-bit word (30_encoding.md R91). -/
def decode (w : Command) : Except DecodeError Instr :=
  match opcodeTable.find? (fun r => r.hits w) with
  | some r => .ok (r.build w)
  | none => .error (rejection w)

/-- The command word of an operation (30_encoding.md R90, R93 to R95). -/
def encode : Instr → Command
  | .clkState src state => 0x0100000000000000#64 ||| place src 0 ||| place state 4
  | .pllCfg m n p psrc q r nul =>
    0x0101000000000000#64 ||| place m 0 ||| place n 6 ||| place p 16 ||| place psrc 22 ||| place q 24 ||| place r 28
      ||| place (BitVec.ofBool nul) 47
  | .setSysClk sel => 0x0102000000000000#64 ||| place sel.code 0
  | .getSysClk => 0x0103000000000000#64
  | .ahbPre code => 0x0104000000000000#64 ||| place code 0
  | .apb1Pre code => 0x0105000000000000#64 ||| place code 0
  | .apb2Pre code => 0x0106000000000000#64 ||| place code 0
  | .periphEn bus bit => 0x0107000000000000#64 ||| place bus 0 ||| place (BitVec.ofNat 8 bit) 8
  | .periphDis bus bit => 0x0108000000000000#64 ||| place bus 0 ||| place (BitVec.ofNat 8 bit) 8
  | .delayMs n => 0x0300000000000000#64 ||| place (BitVec.ofNat 32 n) 0
  | .delayUs n => 0x0301000000000000#64 ||| place (BitVec.ofNat 32 n) 0
  | .i2cInit freq own am => 0x0200000000000000#64 ||| place freq 0 ||| place own 16 ||| place am 31
  | .i2cStart addr dir => 0x0201000000000000#64 ||| place addr 0 ||| place dir.code 8
  | .i2cRestart addr dir => 0x0202000000000000#64 ||| place addr 0 ||| place dir.code 8
  | .i2cWrite buf len => 0x0203000000000000#64 ||| place (BitVec.ofNat 16 len) 0 ||| place (BitVec.ofNat 32 buf) 16
  | .i2cRead buf len => 0x0204000000000000#64 ||| place (BitVec.ofNat 16 len) 0 ||| place (BitVec.ofNat 32 buf) 16
  | .i2cStop => 0x0205000000000000#64

/-- The command word that a word of `nbits` bits of the opcode table stands for: bits from `nbits` up are 0. An
operation is one 64-bit word, so the table's numbering is the command word's own (30_encoding.md R90). -/
def commandOfTable (nbits w : Nat) : Command := BitVec.ofNat 64 (w % 2 ^ min nbits 64)

/-- What the decoder reads from a word numbered as the opcode table numbers it. -/
def decodeTableWord (nbits w : Nat) : Option Instr :=
  match decode (commandOfTable nbits w) with
  | .ok i => some i
  | .error _ => none

end Sys2Proof
end

