-- ==== Sys2Proof/Config.lean ====
section
/-! DEFINITION. What an implementation fixes (the parameters of 00_scope.md R8), what the environment chooses
(the draws of 44_autonomous_steps.md R214 and the autonomous moves of R210 to R217), and the constants without a
body that stand for both where nothing fixes them: nothing in Lean can evaluate one (notes/assumptions 2, 7, 17). -/

namespace Sys2Proof

/-- Which I2C controller is the one in use: `P_I2C_INST` of 00_scope.md R8. -/
inductive I2cInst where
  | i2c1 | i2c2 | i2c3
  deriving DecidableEq, Repr, Inhabited

/-- A range of bit numbers, both ends in it (41_rcc_bus.md R145). -/
structure BitRange where
  lo : Nat
  hi : Nat
  deriving DecidableEq, Repr, Inhabited

/-- The parameters of 00_scope.md R8. `P_AHB2_SET` and `P_AHB3_SET`, which the table fixes, are `Config.ahb2Set`
and `Config.ahb3Set`. -/
structure Params where
  /-- `P_CEIL`, the poll ceiling. -/
  ceil : Nat
  /-- `P_I2C_INST`. -/
  i2cInst : I2cInst
  /-- `P_AHB_PRESC_LEGAL`. -/
  ahbPrescLegal : List Byte
  /-- `P_APB1_PRESC_LEGAL`. -/
  apb1PrescLegal : List Byte
  /-- `P_APB2_PRESC_LEGAL`. -/
  apb2PrescLegal : List Byte
  /-- `P_AHB1_RANGE`. -/
  ahb1Range : BitRange
  /-- `P_APB1_RANGE`. -/
  apb1Range : BitRange
  /-- `P_APB2_RANGE`. -/
  apb2Range : BitRange
  /-- `P_RX_TAIL_RACE`. -/
  rxTailRace : Bool
  /-- `P_DELAY_MAX_MS`. -/
  delayMaxMs : Nat
  /-- `P_DELAY_MAX_US`. -/
  delayMaxUs : Nat
  /-- `P_AHB1ENR_RESET`. -/
  ahb1enrReset : Word
  deriving DecidableEq, Repr, Inhabited

/-- A range of 00_scope.md R8: lo ≤ hi, bit numbers 0 to 31. -/
abbrev BitRange.wf (r : BitRange) : Prop := r.lo ≤ r.hi ∧ r.hi ≤ 31

/-- The bounds 00_scope.md R8 and 30_encoding.md R99 put on the parameters. -/
abbrev Params.wf (p : Params) : Prop :=
  1 ≤ p.ceil ∧
  (∀ c ∈ p.ahbPrescLegal, c.toNat ≤ 15) ∧
  (∀ c ∈ p.apb1PrescLegal, c.toNat ≤ 7) ∧
  (∀ c ∈ p.apb2PrescLegal, c.toNat ≤ 7) ∧
  p.ahb1Range.wf ∧ p.apb1Range.wf ∧ p.apb2Range.wf ∧
  1 ≤ p.delayMaxMs ∧ 1 ≤ p.delayMaxUs

/-- `P_AHB2_SET`: DCMI at bit 0, OTGFS at bit 7 (00_scope.md R8, 41_rcc_bus.md R145). -/
def Config.ahb2Set : List Nat := [0, 7]

/-- `P_AHB3_SET`: FMC at bit 0, QSPI at bit 1 (00_scope.md R8, 41_rcc_bus.md R145). -/
def Config.ahb3Set : List Nat := [0, 1]

/-! ### Parameters nothing fixes -/

/-- `P_CEIL` less one: the ceiling is any number from 1 on (92_eei_decisions.md D5). -/
opaque Config.ceilLessOne : Nat
/-- `P_I2C_INST` (92_eei_decisions.md D16). -/
opaque Config.i2cInst : I2cInst
/-- Which of the codes 0 to 15 are in `P_AHB_PRESC_LEGAL` (92_eei_decisions.md D13). -/
opaque Config.ahbPresc : Nat → Bool
/-- Which of the codes 0 to 7 are in `P_APB1_PRESC_LEGAL`. -/
opaque Config.apb1Presc : Nat → Bool
/-- Which of the codes 0 to 7 are in `P_APB2_PRESC_LEGAL`. -/
opaque Config.apb2Presc : Nat → Bool
/-- One end of `P_AHB1_RANGE` (92_eei_decisions.md D14). -/
opaque Config.ahb1EndA : Fin 32
/-- The other end of `P_AHB1_RANGE`. -/
opaque Config.ahb1EndB : Fin 32
/-- One end of `P_APB1_RANGE`. -/
opaque Config.apb1EndA : Fin 32
/-- The other end of `P_APB1_RANGE`. -/
opaque Config.apb1EndB : Fin 32
/-- One end of `P_APB2_RANGE`. -/
opaque Config.apb2EndA : Fin 32
/-- The other end of `P_APB2_RANGE`. -/
opaque Config.apb2EndB : Fin 32
/-- `P_RX_TAIL_RACE` (92_eei_decisions.md D23). -/
opaque Config.rxTailRace : Bool
/-- `P_DELAY_MAX_MS` less one (92_eei_decisions.md D28). -/
opaque Config.delayMaxMsLessOne : Nat
/-- `P_DELAY_MAX_US` less one. -/
opaque Config.delayMaxUsLessOne : Nat
/-- `P_AHB1ENR_RESET` (92_eei_decisions.md D31). -/
opaque Config.ahb1enrReset : Word
/-- The factory HSICAL byte, the XX of RCC_CR's reset value (10_state.md R51); read by a register view only. -/
opaque Config.hsical : Byte

/-- A register bit between two host steps that no rule states: free, for each turn, register offset and bit
(10_state.md R56, R60, R61, R63). -/
opaque Config.unstatedBit (turn reg bit : Nat) : Bool
/-- The byte in I2C_DR where no rule states it: free, for each turn (10_state.md R59). -/
opaque Config.unstatedByte (turn : Nat) : Byte

/-- The codes below `n` that a set holds. -/
def Config.codes (n : Nat) (member : Nat → Bool) : List Byte :=
  ((List.range n).filter member).map (BitVec.ofNat 8)

/-- The range between two bit numbers. -/
def Config.range (a b : Fin 32) : BitRange := { lo := min a.val b.val, hi := max a.val b.val }

/-- The parameters of the machine that runs from reset: any that 00_scope.md R8 admits. -/
def Config.params : Params where
  ceil := Config.ceilLessOne + 1
  i2cInst := Config.i2cInst
  ahbPrescLegal := Config.codes 16 Config.ahbPresc
  apb1PrescLegal := Config.codes 8 Config.apb1Presc
  apb2PrescLegal := Config.codes 8 Config.apb2Presc
  ahb1Range := Config.range Config.ahb1EndA Config.ahb1EndB
  apb1Range := Config.range Config.apb1EndA Config.apb1EndB
  apb2Range := Config.range Config.apb2EndA Config.apb2EndB
  rxTailRace := Config.rxTailRace
  delayMaxMs := Config.delayMaxMsLessOne + 1
  delayMaxUs := Config.delayMaxUsLessOne + 1
  ahb1enrReset := Config.ahb1enrReset

/-! ### What the environment chooses -/

/-- The failures of a bus phase that are no acknowledge failure: `BusErr` of 10_state.md R44. -/
inductive BusErr where
  | arbLost | busError
  deriving DecidableEq, Repr, Inhabited

/-- The answer to a sent byte, as a wire event records it: `TxResp` of 10_state.md R44. -/
inductive TxResp where
  | ack | nack | arbLost | busError
  deriving DecidableEq, Repr, Inhabited

/-- The draw of a start generation: `StartResp` = Ok | ArbLost | BusError | Stall (44_autonomous_steps.md R214). -/
inductive StartResp where
  | ok | fail (e : BusErr) | stall
  deriving DecidableEq, Repr, Inhabited

/-- The draw of a sent byte: `TxResp'` of 44_autonomous_steps.md R214, which is `TxResp` or Stall. -/
inductive TxDraw where
  | answer (r : TxResp) | stall
  deriving DecidableEq, Repr, Inhabited

/-- The draw of a received byte: `RxResp` = Data(v) | ArbLost | BusError | Stall (44_autonomous_steps.md R214). -/
inductive RxDraw where
  | data (v : Byte) | fail (e : BusErr) | stall
  deriving DecidableEq, Repr, Inhabited

/-- Everything one host step may draw, one field a draw; a step reads the fields its rule draws and no other. -/
structure Draw where
  /-- The outcome of a start generation (43_i2c_master.md R172). -/
  start : StartResp
  /-- The answer to an address or data byte (R172, R175). -/
  tx : TxDraw
  /-- The outcome of receiving a byte (R176). -/
  rx : RxDraw
  /-- The error-pending draw (R178). -/
  stale : Bool
  /-- The final acknowledge under `P_RX_TAIL_RACE` (R176). -/
  lastAck : Bool
  /-- After a bus error: does the controller lose the bus (R179, first draw). -/
  dropRole : Bool
  /-- After a bus error that loses the bus: is the bus busy (R179, second draw). -/
  busAfter : Bool
  /-- The extra byte of Stop (R177). -/
  extra : Byte
  deriving DecidableEq, Repr, Inhabited

/-- The autonomous steps of 44_autonomous_steps.md. -/
inductive Move where
  /-- The ready flag of a source rises (R210). -/
  | readyRises (s : Src)
  /-- The ready flag of a source falls (R211). -/
  | readyFalls (s : Src)
  /-- The SYSCLK switch logic follows the selection (R212). -/
  | switchSysclk
  /-- Another master starts or ends a transaction (R217). -/
  | busChange (b : Bool)
  deriving DecidableEq, Repr, Inhabited

/-- One choice of the environment: an autonomous move, or (none) that the host takes a step, with the step's draws. -/
structure Choice where
  move : Option Move
  draw : Draw
  deriving DecidableEq, Repr, Inhabited

/-- The environment's choices, under no law (00_scope.md R11 `draw T`, 44_autonomous_steps.md R213): a fresh one
for each value of the counter `State.env.turn`. -/
opaque Config.choice : Nat → Choice

end Sys2Proof
end

