-- ==== Sys2Proof/Machine/State.lean ====
section
/-! DEFINITION. Every piece of state of 10_state.md, as plain data, and its reset values (R46). Beside the spec's
parts `rcc`, `i2c`, `host`, `wire` and `refused` (R22), State carries what R22 calls the arguments of the step
relation: the program, the parameters and the environment's choices (notes/assumptions 1). -/

namespace Sys2Proof.Machine

/-- Why the machine stops with a fault. -/
inductive Fault where
  /-- A byte of host memory outside the 2^32 of the address space (20_memory.md R70) was to be read or written:
  raised by a byte step of I2C.WRITE or I2C.READ. Safe; no run reaches it, because R71 refuses such a buffer before
  the first byte (notes/assumptions 16). -/
  | noSuchAddress (a : Nat)
  deriving DecidableEq, Repr

/-- Why the model gives an instruction no meaning. The spec's own refusals (60_exceptions.md R236) are not here:
they are an effect on the state, `State.refused` (notes/assumptions 4). -/
inductive Refusal where
  /-- Raised by an arm of `exec` whose instruction has no meaning yet. Safe. -/
  | notModelled (mnemonic : String)
  deriving DecidableEq, Repr

/-- One value for each clock source. -/
structure PerSrc (α : Type) where
  hsi : α
  hse : α
  pll : α
  plli2s : α
  pllsai : α
  deriving DecidableEq, Repr, Inhabited

/-- One value for each gated bus. -/
structure PerBus (α : Type) where
  ahb1 : α
  ahb2 : α
  ahb3 : α
  apb1 : α
  apb2 : α
  deriving DecidableEq, Repr, Inhabited

/-- The states of the clock-enable state machine, `ClkPhase` of 10_state.md R21. -/
inductive ClkPhase where
  | disabled | enabling | ready | timedOut
  deriving DecidableEq, Repr, Inhabited

/-- Whether the I2C controller owns the bus, and in which direction: `Role` of 10_state.md R21. -/
inductive Role where
  | idle | master (d : Dir)
  deriving DecidableEq, Repr, Inhabited

/-- The main-PLL configuration (10_state.md R25): the raw codes. -/
structure Pll where
  m : BitVec 6
  n : BitVec 9
  p : BitVec 2
  q : BitVec 4
  r : BitVec 3
  /-- 0 = HSI, 1 = HSE. -/
  src : BitVec 1
  deriving DecidableEq, Repr, Inhabited

/-- `st.rcc`, 10_state.md R23 to R28. -/
structure Rcc where
  /-- Enable bits (R23). -/
  on : PerSrc Bool
  /-- Ready flags (R23). -/
  rdy : PerSrc Bool
  /-- Clock-enable phases (R24). -/
  clk : PerSrc ClkPhase
  /-- Main-PLL configuration (R25). -/
  pll : Pll
  /-- System-clock select (R26). -/
  sw : Sel
  /-- System-clock status (R26). -/
  sws : Sel
  /-- AHB prescaler (R27). -/
  hpre : BitVec 4
  /-- APB1 prescaler (R27). -/
  ppre1 : BitVec 3
  /-- APB2 prescaler (R27). -/
  ppre2 : BitVec 3
  /-- Gate words (R28). -/
  enr : PerBus Word
  deriving DecidableEq, Repr, Inhabited

/-- `st.i2c`, 10_state.md R30 to R35. -/
structure I2c where
  /-- Initialize has run (R30). -/
  inited : Bool
  /-- Peripheral enable (R30). -/
  pe : Bool
  /-- Peripheral bus frequency, MHz (R31). -/
  freq : BitVec 6
  /-- Addressing mode, 0 = 7-bit (R31). -/
  addmode : BitVec 1
  /-- Own address (R31). -/
  own : BitVec 10
  /-- Acknowledge enable (R32). -/
  ack : Bool
  /-- Bus ownership (R33). -/
  role : Role
  /-- The bus is occupied (R33). -/
  busy : Bool
  /-- Sticky acknowledge failure (R34). -/
  af : Bool
  /-- Sticky arbitration loss (R34). -/
  arlo : Bool
  /-- Sticky bus error (R34). -/
  berr : Bool
  /-- The slave has started one more byte (R35). -/
  rxTail : Bool
  deriving DecidableEq, Repr, Inhabited

/-- The buses with a prescaler: the payload of InvalidPrescaler (30_encoding.md R105, 90_conflicts.md C2). -/
inductive PrescBus where
  | ahb | apb1 | apb2
  deriving DecidableEq, Repr, Inhabited

/-- The results of operations (30_encoding.md R105). `failed` is the I2C primitives' NOK (90_conflicts.md C8). -/
inductive Result where
  | ok | failed | nullArgument | timeout | invalidClockState | invalidClockType | invalidPllSource
  | invalidPrescaler (b : PrescBus)
  | peripheralEnableError | peripheralDisableError | invalidBus
  deriving DecidableEq, Repr, Inhabited

/-- The host's status (10_state.md R37). -/
inductive Status where
  | running | done | halted (r : Result)
  deriving DecidableEq, Repr, Inhabited

/-- The position inside a running operation, with its local variables (10_state.md R40). -/
inductive Position where
  /-- SetClockState has set `on[s]` and made k polls. -/
  | clkPoll (s : Src) (k : Nat)
  /-- SendStartCondition waits for a free bus. -/
  | busWait (a : BitVec 7) (d : Dir)
  /-- A repeated start in an open transaction is to be generated. R40 lists no position between the first step of
  43_i2c_master.md R174 and its start generation: this one is the model's (notes/assumptions 6). -/
  | repStart (a : BitVec 7) (d : Dir)
  /-- A start or repeated start has been generated; the address byte is next. -/
  | addrPhase (rep : Bool) (a : BitVec 7) (d : Dir)
  /-- Byte i of a write is next. -/
  | txPhase (buf len i : Nat)
  /-- Byte i of a read is next. -/
  | rxPhase (buf len i : Nat)
  deriving DecidableEq, Repr, Inhabited

/-- Why the host has no further step, ever (60_exceptions.md R237, items 2 and 3). -/
inductive HangReason where
  /-- A bus phase drew Stall. -/
  | stall
  /-- A transfer of at least one byte with no open transaction. -/
  | noTransaction
  deriving DecidableEq, Repr, Inhabited

/-- Host buffer memory (20_memory.md R71): the bytes that differ from `Memory.unlisted`, by rising address. -/
abbrev Memory := List Host.Cell

/-- `st.host`, 10_state.md R37 to R40. -/
structure HostState where
  /-- Index of the next operation (R37, R42). -/
  pc : Nat
  /-- Running, Done or Halted (R37). -/
  status : Status
  /-- Result of the last completed operation (R38). -/
  res : Result
  /-- The value GetSystemClock last returned (R38). -/
  val : BitVec 2
  /-- Host buffer memory (R39). -/
  mem : Memory
  /-- Position inside the running operation, or none between operations (R40). -/
  op : Option Position
  /-- The model's mark of a `hang` (00_scope.md R11): the host has no further step (notes/assumptions 5). -/
  hung : Option HangReason
  deriving DecidableEq, Repr, Inhabited

/-- The events of the wire trace (10_state.md R44). -/
inductive WireEvent where
  | start | repStart | stop
  | addr (b : Byte) (r : TxResp)
  | tx (b : Byte) (r : TxResp)
  | rx (b : Byte) (a : Bool)
  | fail (e : BusErr)
  deriving DecidableEq, Repr, Inhabited

/-- The closed list of refusal reasons (60_exceptions.md R236). -/
inductive RefusedReason where
  | invalidCommand | pllConfigWhileEnabled | disableInUse | i2cClockOff | i2cNotInitialised | gateOffWhileMaster
  | directionMismatch | initWhileMaster | bufferRange | delayRange
  deriving DecidableEq, Repr, Inhabited

/-- The environment's choices: those given from outside, one a step, and the counter of the free ones
(`Config.choice`) that follow (notes/assumptions 2). -/
structure Env where
  script : List Choice
  turn : Nat
  deriving DecidableEq, Repr, Inhabited

/-- The machine state `st` (10_state.md R22) with the arguments of the step relation. -/
structure State where
  rcc : Rcc
  i2c : I2c
  host : HostState
  wire : List WireEvent
  refused : Option RefusedReason
  /-- The program the host runs (R22, R37): an argument of the run. -/
  prog : List Command
  /-- The parameters of 00_scope.md R8: an argument of the run. -/
  params : Params
  /-- The environment's choices (R22): an argument of the run. -/
  env : Env
  deriving DecidableEq, Repr, Inhabited

/-- `st.rcc` after reset (10_state.md R46), for the AHB1 gate word of the parameters. -/
def Rcc.reset (ahb1 : Word) : Rcc where
  on := { hsi := true, hse := false, pll := false, plli2s := false, pllsai := false }
  rdy := { hsi := true, hse := false, pll := false, plli2s := false, pllsai := false }
  clk := { hsi := .ready, hse := .disabled, pll := .disabled, plli2s := .disabled, pllsai := .disabled }
  pll := { m := 16, n := 192, p := 0, q := 4, r := 2, src := 0 }
  sw := .hsi
  sws := .hsi
  hpre := 0
  ppre1 := 0
  ppre2 := 0
  enr := { ahb1 := ahb1, ahb2 := 0, ahb3 := 0, apb1 := 0, apb2 := 0 }

/-- `st.i2c` after reset (10_state.md R46). -/
def I2c.reset : I2c where
  inited := false
  pe := false
  freq := 0
  addmode := 0
  own := 0
  ack := false
  role := .idle
  busy := false
  af := false
  arlo := false
  berr := false
  rxTail := false

/-- Reset with the arguments of a run: a program, the launch contents of host memory, the parameters and the
environment's script (10_state.md R46, 70_reset_and_hazards.md R260, R261). An empty program is Done at reset
(60_exceptions.md R233). -/
def State.launch (prog : List Command) (mem : Memory) (params : Params) (script : List Choice) : State where
  rcc := Rcc.reset params.ahb1enrReset
  i2c := I2c.reset
  host :=
    { pc := 0, status := if prog.isEmpty then .done else .running, res := .ok, val := 0, mem := mem, op := none
      hung := none }
  wire := []
  refused := none
  prog := prog
  params := params
  env := { script := script, turn := 0 }

/-- The machine right after reset, with nothing launched: no program, no memory listed, free parameters and free
choices (notes/assumptions 7, 8, 9, 10). -/
def State.reset : State := State.launch [] [] Config.params []

end Sys2Proof.Machine
end

