-- ==== Sys2Proof/Machine/Ops.lean ====
section
/-! DEFINITION. The named operations over the state: per-source and per-bus fields, host memory, the environment's
current choice, the wire, and the ways a step ends: a result under the host rule, a refusal, a hang. The block
raises no exception and returns from none (60_exceptions.md R230, R238): `State.finish` and `State.raise` are the
one shared operation each for what stands in their place. -/

namespace Sys2Proof.Machine

/-! ### Per-source and per-bus fields -/

/-- The entry of a source. -/
def PerSrc.get {α : Type} (f : PerSrc α) : Src → α
  | .hsi => f.hsi
  | .hse => f.hse
  | .pll => f.pll
  | .plli2s => f.plli2s
  | .pllsai => f.pllsai

/-- Writes the entry of a source. -/
def PerSrc.set {α : Type} (f : PerSrc α) (s : Src) (v : α) : PerSrc α :=
  match s with
  | .hsi => { f with hsi := v }
  | .hse => { f with hse := v }
  | .pll => { f with pll := v }
  | .plli2s => { f with plli2s := v }
  | .pllsai => { f with pllsai := v }

/-- The entry of a bus. -/
def PerBus.get {α : Type} (f : PerBus α) : Bus → α
  | .ahb1 => f.ahb1
  | .ahb2 => f.ahb2
  | .ahb3 => f.ahb3
  | .apb1 => f.apb1
  | .apb2 => f.apb2

/-- Writes the entry of a bus. -/
def PerBus.set {α : Type} (f : PerBus α) (b : Bus) (v : α) : PerBus α :=
  match b with
  | .ahb1 => { f with ahb1 := v }
  | .ahb2 => { f with ahb2 := v }
  | .ahb3 => { f with ahb3 := v }
  | .apb1 => { f with apb1 := v }
  | .apb2 => { f with apb2 := v }

/-- Writes the enable bit of a source (10_state.md R23). -/
def State.setOn (src : Src) (v : Bool) (s : State) : State :=
  { s with rcc := { s.rcc with on := s.rcc.on.set src v } }

/-- Writes the ready flag of a source (10_state.md R23); only the oscillator environment does. -/
def State.setRdy (src : Src) (v : Bool) (s : State) : State :=
  { s with rcc := { s.rcc with rdy := s.rcc.rdy.set src v } }

/-- Writes the clock-enable phase of a source (10_state.md R24). -/
def State.setClk (src : Src) (p : ClkPhase) (s : State) : State :=
  { s with rcc := { s.rcc with clk := s.rcc.clk.set src p } }

/-- Writes the gate word of a bus (10_state.md R28). -/
def State.setEnr (b : Bus) (w : Word) (s : State) : State :=
  { s with rcc := { s.rcc with enr := s.rcc.enr.set b w } }

/-! ### Host buffer memory (20_memory.md R71) -/

/-- The number of bytes of host buffer memory (20_memory.md R70). -/
def Memory.size : Nat := 2 ^ 32

/-- What an unlisted address reads as (notes/assumptions 8). -/
def Memory.unlisted : Byte := 0

/-- The byte at an address. -/
def Memory.byte : Memory → Nat → Byte
  | [], _ => Memory.unlisted
  | (b, v) :: rest, a => if a = b then v else Memory.byte rest a

/-- Writes a byte, keeping the canonical form: rising addresses, no entry equal to `Memory.unlisted`. -/
def Memory.put : Memory → Nat → Byte → Memory
  | [], a, v => if v = Memory.unlisted then [] else [(a, v)]
  | (b, w) :: rest, a, v =>
    if a < b then (if v = Memory.unlisted then (b, w) :: rest else (a, v) :: (b, w) :: rest)
    else if a = b then (if v = Memory.unlisted then rest else (a, v) :: rest)
    else (b, w) :: Memory.put rest a v

/-- The canonical form of host memory: addresses strictly rising and inside the address space, no entry equal to
what an unlisted address reads as. -/
abbrev Memory.wf (m : Memory) : Prop :=
  m.Pairwise (fun x y => x.1 < y.1) ∧ ∀ c ∈ m, c.1 < Memory.size ∧ c.2 ≠ Memory.unlisted

/-- Builds a memory from bytes at consecutive addresses: a launch's contents. -/
def Memory.load (m : Memory) (a : Nat) : List Byte → Memory
  | [] => m
  | v :: rest => Memory.load (m.put a v) (a + 1) rest

/-- The byte of host memory at an address. -/
def State.byteAt (s : State) (a : Nat) : Byte := s.host.mem.byte a

/-- `MemRead(a, 1)` (00_scope.md R10); none outside the address space. -/
def State.memRead (s : State) (a : Nat) : Option Byte := if a < Memory.size then some (s.byteAt a) else none

/-- `MemWrite(a, 1, v)` (00_scope.md R10); none outside the address space. -/
def State.memWrite (a : Nat) (v : Byte) (s : State) : Option State :=
  if a < Memory.size then some { s with host := { s.host with mem := s.host.mem.put a v } } else none

/-! ### The environment's choice -/

/-- The current choice: the next one of the script, or a free one. -/
def State.choice (s : State) : Choice :=
  match s.env.script with
  | c :: _ => c
  | [] => Config.choice s.env.turn

/-- The draws of the current host step. -/
def State.draw (s : State) : Draw := s.choice.draw

/-- Takes the current choice: the next step has a fresh one. -/
def State.advance (s : State) : State :=
  { s with env := { script := s.env.script.tail, turn := s.env.turn + 1 } }

/-! ### The wire and the ends of a step -/

/-- `emit e` (00_scope.md R11). -/
def State.emit (e : WireEvent) (s : State) : State := { s with wire := s.wire ++ [e] }

/-- The operation goes on at a position (10_state.md R40). -/
def State.goOn (p : Position) (s : State) : State := { s with host := { s.host with op := some p } }

/-- The host rule for an operation that returns `r` (60_exceptions.md R232). -/
def State.finish (r : Result) (s : State) : State :=
  { s with
    host :=
      { s.host with
        res := r
        op := none
        pc := if r = .ok then s.host.pc + 1 else s.host.pc
        status :=
          if r = .ok then (if s.host.pc + 1 = s.prog.length then .done else s.host.status) else .halted r } }

/-- `raise Refused(reason)` (00_scope.md R11, 60_exceptions.md R236). -/
def State.raise (reason : RefusedReason) (s : State) : State := { s with refused := some reason }

/-- `hang` (00_scope.md R11): the host has no further step, ever. -/
def State.hang (h : HangReason) (s : State) : State := { s with host := { s.host with hung := some h } }

/-- A step's outcome with its next state changed. -/
def mapNext (f : State → State) : Host.Outcome State Fault Refusal → Host.Outcome State Fault Refusal
  | .next s => .next (f s)
  | .fault r => .fault r
  | .refused r => .refused r

/-! ### The host's turn (60_exceptions.md R232, R233, R236, R237) -/

/-- The host may take a step: it is Running, nothing was refused, it does not hang. -/
def State.hostRuns (s : State) : Bool :=
  s.host.status == .running && s.refused.isNone && s.host.hung.isNone

/-- The command word at `host.pc` (10_state.md R37). -/
def State.fetch (s : State) : Option Command := s.prog[s.host.pc]?

/-- The operation at `host.pc`, where its word decodes. -/
def State.current (s : State) : Option Instr :=
  match s.fetch with
  | none => none
  | some w =>
    match decode w with
    | .ok i => some i
    | .error _ => none

/-- Puts a command word at `host.pc`, gives the host the next turn and makes it ready to start an operation there:
the launch of one word from outside (notes/assumptions 10). Words missing before `host.pc` are filled with 0. -/
def State.placeCommand (w : Command) (s : State) : State :=
  { s with
    prog :=
      (s.prog ++ List.replicate (s.host.pc - s.prog.length) 0).take s.host.pc ++ w :: s.prog.drop (s.host.pc + 1)
    host := { s.host with status := .running, op := none, hung := none }
    refused := none
    env := { s.env with script := { s.choice with move := none } :: s.env.script.tail } }

end Sys2Proof.Machine
end

