-- ==== Sys2Proof/Machine/Delay.lean ====
section
/-! DEFINITION. The two delay operations of 42_delay.md: no effect on the block beyond the host rule. -/

namespace Sys2Proof.Machine

/-- A delay of `n` units where the tick source can represent `max` (42_delay.md R160, R161). -/
def delay (n max : Nat) (s : State) : State :=
  if n = 0 ∨ max < n then s.raise .delayRange else s.finish .ok

/-- DELAY.MS (42_delay.md R160). -/
def execDelayMs (n : Nat) (s : State) : Host.Outcome State Fault Refusal := .next (delay n s.params.delayMaxMs s)

/-- DELAY.US (42_delay.md R161). -/
def execDelayUs (n : Nat) (s : State) : Host.Outcome State Fault Refusal := .next (delay n s.params.delayMaxUs s)

end Sys2Proof.Machine
end

