-- ==== Sys2Proof/Machine/Operands.lean ====
section
/-! DEFINITION. What the operands and codes stand for: sources, buses, legal sets, the address byte, and the
meanings of the PLL and prescaler codes (30_encoding.md R96 to R105, 20_memory.md R75, 41_rcc_bus.md R145). -/

namespace Sys2Proof.Machine

/-- SRC codes (30_encoding.md R96); 5, 6 and 7 are no source. -/
def srcOfCode (c : BitVec 3) : Option Src :=
  if c = 0 then some .hsi
  else if c = 1 then some .hse
  else if c = 2 then some .pll
  else if c = 3 then some .plli2s
  else if c = 4 then some .pllsai
  else none

/-- STATE codes (30_encoding.md R96): 0 Off, 1 On; 2 and 3 are no state. -/
def onOffOfCode (c : BitVec 2) : Option Bool :=
  if c = 0 then some false else if c = 1 then some true else none

/-- PSRC codes (30_encoding.md R93): 0 HSI, 1 HSE, as the one-bit `pll.src`; 2 and 3 are no PLL source. -/
def pllSrcOfCode (c : BitVec 2) : Option (BitVec 1) :=
  if c = 0 then some 0 else if c = 1 then some 1 else none

/-- BUS codes (30_encoding.md R100); 5, 6 and 7 are no bus. -/
def busOfCode (c : BitVec 3) : Option Bus :=
  if c = 0 then some .ahb1
  else if c = 1 then some .ahb2
  else if c = 2 then some .ahb3
  else if c = 3 then some .apb1
  else if c = 4 then some .apb2
  else none

/-- `srcOf` (10_state.md R29). -/
def srcOf : Sel → Src
  | .hsi => .hsi
  | .hse => .hse
  | .pllp => .pll
  | .pllr => .pll

/-- `P_I2C_INST` as a number (00_scope.md R8). -/
def instNumber : I2cInst → Nat
  | .i2c1 => 1
  | .i2c2 => 2
  | .i2c3 => 3

/-- The bit of the APB1 gate word that clocks the I2C instance in use (10_state.md R36). -/
def i2cGateBit (p : Params) : Nat := 20 + instNumber p.i2cInst

/-- A bit number in a range [lo, hi] (41_rcc_bus.md R145). -/
def BitRange.holds (r : BitRange) (bit : Nat) : Bool := r.lo ≤ bit && bit ≤ r.hi

/-- `BIT ∈ legal(b)` (41_rcc_bus.md R145). -/
def legalBit (p : Params) (b : Bus) (bit : Nat) : Bool :=
  match b with
  | .ahb1 => BitRange.holds p.ahb1Range bit
  | .ahb2 => Config.ahb2Set.contains bit
  | .ahb3 => Config.ahb3Set.contains bit
  | .apb1 => BitRange.holds p.apb1Range bit
  | .apb2 => BitRange.holds p.apb2Range bit

/-- The legal prescaler codes of a bus (30_encoding.md R99). -/
def prescLegal (p : Params) : PrescBus → List Byte
  | .ahb => p.ahbPrescLegal
  | .apb1 => p.apb1PrescLegal
  | .apb2 => p.apb2PrescLegal

/-- Sets one bit of a gate word (30_encoding.md R103). -/
def setBit (w : Word) (k : Nat) : Word := w ||| (1#32 <<< k)

/-- Clears one bit of a gate word (30_encoding.md R103). -/
def clearBit (w : Word) (k : Nat) : Word := w &&& ~~~(1#32 <<< k)

/-- `addrByte(a, d) = (a << 1) | code(d)` (20_memory.md R75). -/
def addrByte (a : BitVec 7) (d : Dir) : Byte := (a.setWidth 8 <<< 1) ||| d.code.setWidth 8

/-- The buffer runs past the end of host memory: `BUF + LEN > 2^32` (20_memory.md R71, 30_encoding.md R104). -/
def bufferOverruns (buf len : Nat) : Bool := Memory.size < buf + len

/-- Result codes (30_encoding.md R105). -/
def Result.code : Result → Nat
  | .ok => 0
  | .failed => 1
  | .nullArgument => 2
  | .timeout => 3
  | .invalidClockState => 4
  | .invalidClockType => 5
  | .invalidPllSource => 6
  | .invalidPrescaler _ => 7
  | .peripheralEnableError => 8
  | .peripheralDisableError => 9
  | .invalidBus => 10

/-- `pllLegal(st)`: every field of the PLL configuration is in its legal range (30_encoding.md R97). No operation
checks it. -/
def pllLegal (s : State) : Bool :=
  2 ≤ s.rcc.pll.m.toNat && 50 ≤ s.rcc.pll.n.toNat && s.rcc.pll.n.toNat ≤ 432 && 2 ≤ s.rcc.pll.q.toNat
    && 2 ≤ s.rcc.pll.r.toNat

/-- The division a PLLP code stands for (30_encoding.md R97). -/
def pllpDivision (c : BitVec 2) : Nat := 2 * (c.toNat + 1)

/-- The division an HPRE code stands for (30_encoding.md R99). -/
def hpreDivision (c : BitVec 4) : Nat :=
  if c.toNat < 8 then 1 else if c.toNat < 12 then 2 ^ (c.toNat - 7) else 2 ^ (c.toNat - 6)

/-- The division a PPRE code stands for (30_encoding.md R99). -/
def ppreDivision (c : BitVec 3) : Nat := if c.toNat < 4 then 1 else 2 ^ (c.toNat - 3)

end Sys2Proof.Machine
end

