-- ==== Sys2Proof/Machine/Flags.lean ====
section
/-! DEFINITION. The status conditions the operations read and the flags a failure writes (10_state.md R29, R34,
R36, R45, 43_i2c_master.md R170, R178, R179). The block has no arithmetic flags (R45). -/

namespace Sys2Proof.Machine

/-- `pllIn(st)` (10_state.md R29). -/
def pllIn (s : State) : Src := if s.rcc.pll.src = 0 then .hsi else .hse

/-- Some PLL is on or still has its ready flag set (10_state.md R29, 40_rcc_clock.md R121). -/
def anyPllLive (s : State) : Bool :=
  (s.rcc.on.pll || s.rcc.rdy.pll) || (s.rcc.on.plli2s || s.rcc.rdy.plli2s) || (s.rcc.on.pllsai || s.rcc.rdy.pllsai)

/-- The source is in use (10_state.md R29). -/
def inUse (s : State) (src : Src) : Bool :=
  src == srcOf s.rcc.sw || src == srcOf s.rcc.sws || (src == pllIn s && anyPllLive s)

/-- `i2cClk(st)`: the gate bit of the I2C instance in use (10_state.md R36). -/
def i2cClk (s : State) : Bool := s.rcc.enr.apb1.getLsbD (i2cGateBit s.params)

/-- `errPending(st)` (10_state.md R34). -/
def errPending (s : State) : Bool := s.i2c.af || s.i2c.arlo || s.i2c.berr

/-- The admission guard `i2cGuard()` (43_i2c_master.md R170): the refusal it raises, if any. -/
def i2cGuard (s : State) : Option RefusedReason :=
  if i2cClk s = false then some .i2cClockOff
  else if s.i2c.inited = false then some .i2cNotInitialised
  else none

/-- The error-pending check fails the operation (43_i2c_master.md R178). -/
def staleFails (s : State) : Bool := errPending s && s.draw.stale

/-- The failures an operation reports (43_i2c_master.md R179). -/
inductive Failure where
  | nack | arbLost | busError
  deriving DecidableEq, Repr, Inhabited

/-- A bus error as a failure. -/
def failureOfErr : BusErr → Failure
  | .arbLost => .arbLost
  | .busError => .busError

/-- The failure an answer reports; none for an acknowledge. -/
def failureOfResp : TxResp → Option Failure
  | .ack => none
  | .nack => some .nack
  | .arbLost => some .arbLost
  | .busError => some .busError

/-- `applyFail(e)` (43_i2c_master.md R179). -/
def State.applyFail (f : Failure) (s : State) : State :=
  match f with
  | .nack => { s with i2c := { s.i2c with af := true } }
  | .arbLost => { s with i2c := { s.i2c with arlo := true, role := .idle, busy := true } }
  | .busError =>
    { s with
      i2c :=
        { s.i2c with
          berr := true
          role := if s.draw.dropRole then .idle else s.i2c.role
          busy := if s.draw.dropRole then s.draw.busAfter else s.i2c.busy } }

/-- The operation reports failure `f` and returns Failed (43_i2c_master.md R179). -/
def State.fails (f : Failure) (s : State) : State := (s.applyFail f).finish .failed

end Sys2Proof.Machine
end

