-- ==== Sys2Proof/Machine/I2cMaster.lean ====
section
/-! DEFINITION. The six I2C master operations of 43_i2c_master.md. A meaning is the host's next step of the
operation: the first step, or, at a position of the operation (10_state.md R40), the step that follows it. The
bus's answers are the draws of the current choice (44_autonomous_steps.md R214). -/

namespace Sys2Proof.Machine

/-! ### The address phase (43_i2c_master.md R172) -/

/-- `role <- Master(d) ; busy <- true` (43_i2c_master.md R172). -/
def State.takeBus (d : Dir) (s : State) : State := { s with i2c := { s.i2c with role := .master d, busy := true } }

/-- Start generation (43_i2c_master.md R172). A plain start has no step while the bus is busy: the host waits. -/
def startGeneration (rep : Bool) (a : BitVec 7) (d : Dir) (s : State) : State :=
  if rep = false ∧ s.i2c.busy = true then s
  else
    match s.draw.start with
    | .stall => s.hang .stall
    | .fail e => (s.emit (.fail e)).fails (failureOfErr e)
    | .ok => ((s.emit (if rep then .repStart else .start)).takeBus d).goOn (.addrPhase rep a d)

/-- The address byte and its acknowledge (43_i2c_master.md R172). -/
def addressByte (a : BitVec 7) (d : Dir) (s : State) : State :=
  match s.draw.tx with
  | .stall => s.hang .stall
  | .answer r =>
    match failureOfResp r with
    | none => (s.emit (.addr (addrByte a d) r)).finish .ok
    | some f => (s.emit (.addr (addrByte a d) r)).fails f

/-! ### First steps -/

/-- `rxTail <- false` (43_i2c_master.md R178). -/
def State.clearRxTail (s : State) : State := { s with i2c := { s.i2c with rxTail := false } }

/-- The common first step of Start and RepeatedStart, then `rest` (43_i2c_master.md R173, R174). -/
def startFirst (rest : State → State) (s : State) : State :=
  match i2cGuard s with
  | some reason => s.raise reason
  | none => if staleFails s then s.clearRxTail.finish .failed else rest s.clearRxTail

/-- The common first step of MasterWriteData and ReadData: a transfer against `against` is refused, and a transfer
of at least one byte with an open transaction goes on at `p` (43_i2c_master.md R175, R176; 60_exceptions.md R234). -/
def transferFirst (against : Dir) (p : Position) (buf len : Nat) (s : State) : State :=
  match i2cGuard s with
  | some reason => s.raise reason
  | none =>
    if bufferOverruns buf len then s.raise .bufferRange
    else if s.i2c.role = .master against then s.raise .directionMismatch
    else if staleFails s then s.clearRxTail.finish .failed
    else if len = 0 then s.clearRxTail.finish .ok
    else if s.i2c.role = .idle then s.clearRxTail.hang .noTransaction
    else s.clearRxTail.goOn p

/-! ### Byte steps -/

/-- Byte i of MasterWriteData was answered (43_i2c_master.md R175). -/
def byteSent (buf len i : Nat) (b : Byte) (s : State) : State :=
  match s.draw.tx with
  | .stall => s.hang .stall
  | .answer r =>
    match failureOfResp r with
    | some f => (s.emit (.tx b r)).fails f
    | none =>
      if len ≤ i + 1 then (s.emit (.tx b r)).finish .ok else (s.emit (.tx b r)).goOn (.txPhase buf len (i + 1))

/-- The step of byte i of MasterWriteData (43_i2c_master.md R175). -/
def sendByte (buf len i : Nat) (s : State) : Host.Outcome State Fault Refusal :=
  match s.memRead (buf + i) with
  | none => .fault (.noSuchAddress (buf + i))
  | some b => .next (byteSent buf len i b s)

/-- `ack <- v` (10_state.md R32). -/
def State.setAck (v : Bool) (s : State) : State := { s with i2c := { s.i2c with ack := v } }

/-- `rxTail <- v` (10_state.md R35). -/
def State.setRxTail (v : Bool) (s : State) : State := { s with i2c := { s.i2c with rxTail := v } }

/-- The acknowledge of a received byte on the wire: NACK for the last, but for the race of `P_RX_TAIL_RACE`
(43_i2c_master.md R176). -/
def wireAck (last : Bool) (s : State) : Bool :=
  if last then (if s.params.rxTailRace then s.draw.lastAck else false) else true

/-- Byte i of ReadData arrived and was stored (43_i2c_master.md R176). -/
def byteStored (buf len i : Nat) (a : Bool) (s : State) : State :=
  if len ≤ i + 1 then (s.setRxTail a).finish .ok else s.goOn (.rxPhase buf len (i + 1))

/-- The step of byte i of ReadData (43_i2c_master.md R176). -/
def receiveByte (buf len i : Nat) (s : State) : Host.Outcome State Fault Refusal :=
  let last := decide (len ≤ i + 1)
  let t := s.setAck (!last)
  match s.draw.rx with
  | .stall => .next (t.hang .stall)
  | .fail e => .next ((t.emit (.fail e)).fails (failureOfErr e))
  | .data v =>
    match (t.emit (.rx v (wireAck last s))).memWrite (buf + i) v with
    | none => .fault (.noSuchAddress (buf + i))
    | some u => .next (byteStored buf len i (wireAck last s) u)

/-! ### The operations -/

/-- Initialize writes its configuration (43_i2c_master.md R171). -/
def State.configureI2c (freq : BitVec 6) (own : BitVec 10) (am : BitVec 1) (s : State) : State :=
  { s with i2c := { s.i2c with freq := freq, addmode := am, own := own, pe := true, inited := true } }

/-- I2C.INIT (43_i2c_master.md R171). -/
def execI2cInit (freq : BitVec 6) (own : BitVec 10) (am : BitVec 1) (s : State) : Host.Outcome State Fault Refusal :=
  .next
    (if i2cClk s = false then s.raise .i2cClockOff
    else if s.i2c.role ≠ .idle then s.raise .initWhileMaster
    else (s.configureI2c freq own am).finish .ok)

/-- I2C.START (43_i2c_master.md R173). -/
def execI2cStart (a : BitVec 7) (d : Dir) (s : State) : Host.Outcome State Fault Refusal :=
  .next
    (match s.host.op with
    | some (.busWait x y) => startGeneration false x y s
    | some (.addrPhase _ x y) => addressByte x y s
    | _ => startFirst (fun t => t.goOn (.busWait a d)) s)

/-- I2C.RESTART (43_i2c_master.md R174): a repeated start in an open transaction, a start otherwise. -/
def execI2cRestart (a : BitVec 7) (d : Dir) (s : State) : Host.Outcome State Fault Refusal :=
  .next
    (match s.host.op with
    | some (.busWait x y) => startGeneration false x y s
    | some (.repStart x y) => startGeneration true x y s
    | some (.addrPhase _ x y) => addressByte x y s
    | _ => startFirst (fun t => t.goOn (if t.i2c.role = .idle then .busWait a d else .repStart a d)) s)

/-- I2C.WRITE (43_i2c_master.md R175). -/
def execI2cWrite (buf len : Nat) (s : State) : Host.Outcome State Fault Refusal :=
  match s.host.op with
  | some (.txPhase b n i) => sendByte b n i s
  | _ => .next (transferFirst .r (.txPhase buf len 0) buf len s)

/-- I2C.READ (43_i2c_master.md R176). -/
def execI2cRead (buf len : Nat) (s : State) : Host.Outcome State Fault Refusal :=
  match s.host.op with
  | some (.rxPhase b n i) => receiveByte b n i s
  | _ => .next (transferFirst .w (.rxPhase buf len 0) buf len s)

/-- Stop releases the bus (43_i2c_master.md R177). -/
def State.releaseBus (s : State) : State :=
  { s with i2c := { s.i2c with role := .idle, busy := false, rxTail := false, ack := false } }

/-- The extra byte of an acknowledged final byte goes on the wire, NACKed (43_i2c_master.md R177). -/
def State.extraByte (s : State) : State := if s.i2c.rxTail then s.emit (.rx s.draw.extra false) else s

/-- I2C.STOP (43_i2c_master.md R177): never refused. -/
def execI2cStop (s : State) : Host.Outcome State Fault Refusal :=
  .next
    (if i2cClk s = false ∨ s.i2c.inited = false ∨ s.i2c.role = .idle then s.finish .ok
    else ((s.extraByte.emit .stop).releaseBus).finish .ok)

end Sys2Proof.Machine
end

