-- ==== Sys2Proof/Machine/RccBus.lean ====
section
/-! DEFINITION. The bus prescalers and the peripheral clock gates of 41_rcc_bus.md. -/

namespace Sys2Proof.Machine

/-- A prescaler operation: the legality check, then the write (41_rcc_bus.md R140 to R142). -/
def prescale (b : PrescBus) (code : Byte) (write : State → State) (s : State) : State :=
  if (prescLegal s.params b).contains code then (write s).finish .ok else s.finish (.invalidPrescaler b)

/-- RCC.AHBPRE (41_rcc_bus.md R140): writes CODE[3:0]. -/
def execAhbPre (code : Byte) (s : State) : Host.Outcome State Fault Refusal :=
  .next (prescale .ahb code (fun t => { t with rcc := { t.rcc with hpre := code.setWidth 4 } }) s)

/-- RCC.APB1PRE (41_rcc_bus.md R141): writes CODE[2:0]. -/
def execApb1Pre (code : Byte) (s : State) : Host.Outcome State Fault Refusal :=
  .next (prescale .apb1 code (fun t => { t with rcc := { t.rcc with ppre1 := code.setWidth 3 } }) s)

/-- RCC.APB2PRE (41_rcc_bus.md R142): writes CODE[2:0]. -/
def execApb2Pre (code : Byte) (s : State) : Host.Outcome State Fault Refusal :=
  .next (prescale .apb2 code (fun t => { t with rcc := { t.rcc with ppre2 := code.setWidth 3 } }) s)

/-- A gate operation: the bus check, then the bit check, then the write (41_rcc_bus.md R143, R144). -/
def gate (bus : BitVec 3) (bit : Nat) (badBit : Result) (write : Bus → State → State) (s : State) : State :=
  match busOfCode bus with
  | none => s.finish .invalidBus
  | some b => if legalBit s.params b bit then write b s else s.finish badBit

/-- RCC.PERIPH_EN (41_rcc_bus.md R143). -/
def execPeriphEn (bus : BitVec 3) (bit : Nat) (s : State) : Host.Outcome State Fault Refusal :=
  .next
    (gate bus bit .peripheralEnableError
      (fun b t => (t.setEnr b (setBit (t.rcc.enr.get b) bit)).finish .ok) s)

/-- The gate of the I2C instance in use would be cleared while the controller holds the bus (41_rcc_bus.md R144). -/
def stopsMaster (b : Bus) (bit : Nat) (s : State) : Bool :=
  b == .apb1 && bit == i2cGateBit s.params && s.i2c.role != .idle

/-- RCC.PERIPH_DIS (41_rcc_bus.md R144). -/
def execPeriphDis (bus : BitVec 3) (bit : Nat) (s : State) : Host.Outcome State Fault Refusal :=
  .next
    (gate bus bit .peripheralDisableError
      (fun b t =>
        if stopsMaster b bit t then t.raise .gateOffWhileMaster
        else (t.setEnr b (clearBit (t.rcc.enr.get b) bit)).finish .ok) s)

end Sys2Proof.Machine
end

