-- ==== Sys2Proof/Machine/RccClock.lean ====
section
/-! DEFINITION. The clock-tree operations of 40_rcc_clock.md: RCC.CLKSTATE, RCC.PLLCFG, RCC.SETSYSCLK and
RCC.GETSYSCLK. A meaning is the host's next step of the operation: the first step, or, at a position of the
operation (10_state.md R40), the step that follows it. -/

namespace Sys2Proof.Machine

/-- SetClockState(s, Off) (40_rcc_clock.md R120). -/
def clkOff (src : Src) (s : State) : State :=
  if inUse s src then s.raise .disableInUse else ((s.setOn src false).setClk src .disabled).finish .ok

/-- SetClockState(s, On), first step (40_rcc_clock.md R120). -/
def clkOn (src : Src) (s : State) : State := ((s.setOn src true).setClk src .enabling).goOn (.clkPoll src 0)

/-- The first step of SetClockState (40_rcc_clock.md R120; order of the checks: 60_exceptions.md R234). -/
def clkFirst (src : BitVec 3) (state : BitVec 2) (s : State) : State :=
  match srcOfCode src with
  | none => s.finish .invalidClockType
  | some x =>
    match onOffOfCode state with
    | none => s.finish .invalidClockState
    | some false => clkOff x s
    | some true => clkOn x s

/-- A poll of SetClockState after k polls (40_rcc_clock.md R120). -/
def clkPoll (src : Src) (k : Nat) (s : State) : State :=
  if s.rcc.rdy.get src then (s.setClk src .ready).finish .ok
  else if s.params.ceil ≤ k + 1 then (s.setClk src .timedOut).finish .timeout
  else s.goOn (.clkPoll src (k + 1))

/-- RCC.CLKSTATE (40_rcc_clock.md R120, R124). -/
def execClkState (src : BitVec 3) (state : BitVec 2) (s : State) : Host.Outcome State Fault Refusal :=
  .next
    (match s.host.op with
    | some (.clkPoll x k) => clkPoll x k s
    | _ => clkFirst src state s)

/-- SetPLLConfig writes the five divider fields (40_rcc_clock.md R121). -/
def State.setPllFields (m : BitVec 6) (n : BitVec 9) (p : BitVec 2) (q : BitVec 4) (r : BitVec 3) (s : State) :
    State :=
  { s with rcc := { s.rcc with pll := { s.rcc.pll with m := m, n := n, p := p, q := q, r := r } } }

/-- SetPLLConfig writes the input-source bit (40_rcc_clock.md R121). -/
def State.setPllSrc (v : BitVec 1) (s : State) : State :=
  { s with rcc := { s.rcc with pll := { s.rcc.pll with src := v } } }

/-- RCC.PLLCFG (40_rcc_clock.md R121): NullArgument, the refusal, the five fields, then the source. -/
def execPllCfg (m : BitVec 6) (n : BitVec 9) (p : BitVec 2) (psrc : BitVec 2) (q : BitVec 4) (r : BitVec 3)
    (nul : Bool) (s : State) : Host.Outcome State Fault Refusal :=
  .next
    (if nul then s.finish .nullArgument
    else if anyPllLive s then s.raise .pllConfigWhileEnabled
    else
      match pllSrcOfCode psrc with
      | some v => ((s.setPllFields m n p q r).setPllSrc v).finish .ok
      | none => (s.setPllFields m n p q r).finish .invalidPllSource)

/-- RCC.SETSYSCLK (40_rcc_clock.md R122): writes `sw` only; `sws` follows by the switch logic. -/
def execSetSysClk (sel : Sel) (s : State) : Host.Outcome State Fault Refusal :=
  .next (({ s with rcc := { s.rcc with sw := sel } } : State).finish .ok)

/-- RCC.GETSYSCLK (40_rcc_clock.md R123): a pure read of `sws`. -/
def execGetSysClk (s : State) : Host.Outcome State Fault Refusal :=
  .next (({ s with host := { s.host with val := s.rcc.sws.code } } : State).finish .ok)

end Sys2Proof.Machine
end

