-- ==== Sys2Proof/Machine/Dispatch.lean ====
section
/-! DEFINITION. One arm per operation (30_encoding.md R92): the host's next step of it. -/

namespace Sys2Proof.Machine

def exec (i : Instr) (s : State) : Host.Outcome State Fault Refusal :=
  match i with
  -- 40_rcc_clock.md
  | .clkState src state => Sys2Proof.Machine.execClkState src state s
  | .pllCfg m n p psrc q r nul => Sys2Proof.Machine.execPllCfg m n p psrc q r nul s
  | .setSysClk sel => Sys2Proof.Machine.execSetSysClk sel s
  | .getSysClk => Sys2Proof.Machine.execGetSysClk s
  -- 41_rcc_bus.md
  | .ahbPre code => Sys2Proof.Machine.execAhbPre code s
  | .apb1Pre code => Sys2Proof.Machine.execApb1Pre code s
  | .apb2Pre code => Sys2Proof.Machine.execApb2Pre code s
  | .periphEn bus bit => Sys2Proof.Machine.execPeriphEn bus bit s
  | .periphDis bus bit => Sys2Proof.Machine.execPeriphDis bus bit s
  -- 42_delay.md
  | .delayMs n => Sys2Proof.Machine.execDelayMs n s
  | .delayUs n => Sys2Proof.Machine.execDelayUs n s
  -- 43_i2c_master.md
  | .i2cInit freq own am => Sys2Proof.Machine.execI2cInit freq own am s
  | .i2cStart addr dir => Sys2Proof.Machine.execI2cStart addr dir s
  | .i2cRestart addr dir => Sys2Proof.Machine.execI2cRestart addr dir s
  | .i2cWrite buf len => Sys2Proof.Machine.execI2cWrite buf len s
  | .i2cRead buf len => Sys2Proof.Machine.execI2cRead buf len s
  | .i2cStop => Sys2Proof.Machine.execI2cStop s

end Sys2Proof.Machine
end

