-- ==== Sys2Proof/Machine/Environment.lean ====
section
/-! DEFINITION. The autonomous steps of 44_autonomous_steps.md R210 to R217: the oscillators, the SYSCLK switch and
the other masters. -/

namespace Sys2Proof.Machine

/-- The state admits the move (44_autonomous_steps.md R210, R211, R212, R217). -/
def moveEnabled (m : Move) (s : State) : Bool :=
  match m with
  | .readyRises x => s.rcc.on.get x && !s.rcc.rdy.get x
  | .readyFalls x => !s.rcc.on.get x && s.rcc.rdy.get x
  | .switchSysclk => s.rcc.sws != s.rcc.sw && s.rcc.on.get (srcOf s.rcc.sw) && s.rcc.rdy.get (srcOf s.rcc.sw)
  | .busChange _ => s.i2c.role == .idle

/-- What the move does (44_autonomous_steps.md R210, R211, R212, R217). -/
def moveEffect (m : Move) (s : State) : State :=
  match m with
  | .readyRises x => s.setRdy x true
  | .readyFalls x => s.setRdy x false
  | .switchSysclk => { s with rcc := { s.rcc with sws := s.rcc.sw } }
  | .busChange b => { s with i2c := { s.i2c with busy := b } }

/-- An autonomous move; a move the state does not admit leaves it as it is (notes/assumptions 3). -/
def envMove (m : Move) (s : State) : State := if moveEnabled m s then moveEffect m s else s

end Sys2Proof.Machine
end

