-- ==== Sys2Proof/Machine/Step.lean ====
section
/-! DEFINITION. One step of the machine: an autonomous move or a host step, as the current choice says
(44_autonomous_steps.md R213), then the choice is taken. Everything this file calls stands in Ops.lean,
Environment.lean, Decode.lean and Dispatch.lean. -/

namespace Sys2Proof.Machine

/-- The host's step at the command word `w`: an undecodable word is refused (30_encoding.md R91). -/
def runCommand (w : Command) (s : State) : Host.Outcome State Fault Refusal :=
  match decode w with
  | .error _ => .next (s.raise .invalidCommand)
  | .ok i => exec i s

/-- The host's turn (60_exceptions.md R232): with no enabled step, or no operation at `pc`, it passes. -/
def hostTurn (s : State) : Host.Outcome State Fault Refusal :=
  if s.hostRuns then
    match s.fetch with
    | none => .next s
    | some w => runCommand w s
  else .next s

/-- One step of the machine. -/
def step (s : State) : Host.Outcome State Fault Refusal :=
  match s.choice.move with
  | some m => .next (envMove m s).advance
  | none => mapNext State.advance (hostTurn s)

/-- `s` with one word of the opcode table placed where the host fetches its next operation. -/
def State.withFetchWord (s : State) (nbits w : Nat) : State := s.placeCommand (commandOfTable nbits w)

end Sys2Proof.Machine
end

