-- ==== Sys2Proof/Machine/Assembler.lean ====
section
/-! DEFINITION. The assembler syntax and the pseudo-operations of 30_encoding.md R108 and R109. -/

namespace Sys2Proof.Machine

/-- A SRC operand: its name, or its number where it is no source (30_encoding.md R96, R108). -/
def srcText (c : BitVec 3) : String :=
  if c = 0 then "HSI" else if c = 1 then "HSE" else if c = 2 then "PLL" else if c = 3 then "PLLI2S"
  else if c = 4 then "PLLSAI" else toString c.toNat

/-- A STATE operand (30_encoding.md R96, R108). -/
def stateText (c : BitVec 2) : String := if c = 0 then "OFF" else if c = 1 then "ON" else toString c.toNat

/-- A PSRC operand (30_encoding.md R93, R108). -/
def psrcText (c : BitVec 2) : String := if c = 0 then "HSI" else if c = 1 then "HSE" else toString c.toNat

/-- A SEL operand (30_encoding.md R108). -/
def selText : Sel → String
  | .hsi => "HSI"
  | .hse => "HSE"
  | .pllp => "PLLP"
  | .pllr => "PLLR"

/-- A BUS operand (30_encoding.md R100, R108). -/
def busText (c : BitVec 3) : String :=
  if c = 0 then "AHB1" else if c = 1 then "AHB2" else if c = 2 then "AHB3" else if c = 3 then "APB1"
  else if c = 4 then "APB2" else toString c.toNat

/-- A DIR operand (30_encoding.md R108). -/
def dirText : Dir → String
  | .w => "W"
  | .r => "R"

/-- An AM operand (30_encoding.md R94, R108). -/
def amText (c : BitVec 1) : String := if c = 0 then "7BIT" else "10BIT"

/-- The assembler line of an operation (30_encoding.md R108), numbers in decimal. -/
def asm : Instr → String
  | .clkState src state => "RCC.CLKSTATE " ++ srcText src ++ ", " ++ stateText state
  | .pllCfg m n p psrc q r nul =>
    if nul then "RCC.PLLCFG NULL"
    else "RCC.PLLCFG m=" ++ toString m.toNat ++ ", n=" ++ toString n.toNat ++ ", p=" ++ toString p.toNat ++ ", q="
      ++ toString q.toNat ++ ", r=" ++ toString r.toNat ++ ", src=" ++ psrcText psrc
  | .setSysClk sel => "RCC.SETSYSCLK " ++ selText sel
  | .getSysClk => "RCC.GETSYSCLK"
  | .ahbPre code => "RCC.AHBPRE " ++ toString code.toNat
  | .apb1Pre code => "RCC.APB1PRE " ++ toString code.toNat
  | .apb2Pre code => "RCC.APB2PRE " ++ toString code.toNat
  | .periphEn bus bit => "RCC.PERIPH_EN " ++ busText bus ++ ", " ++ toString bit
  | .periphDis bus bit => "RCC.PERIPH_DIS " ++ busText bus ++ ", " ++ toString bit
  | .delayMs n => "DELAY.MS " ++ toString n
  | .delayUs n => "DELAY.US " ++ toString n
  | .i2cInit freq own am =>
    "I2C.INIT freq=" ++ toString freq.toNat ++ ", own=" ++ toString own.toNat ++ ", am=" ++ amText am
  | .i2cStart addr dir => "I2C.START " ++ toString addr.toNat ++ ", " ++ dirText dir
  | .i2cRestart addr dir => "I2C.RESTART " ++ toString addr.toNat ++ ", " ++ dirText dir
  | .i2cWrite buf len => "I2C.WRITE " ++ toString buf ++ ", " ++ toString len
  | .i2cRead buf len => "I2C.READ " ++ toString buf ++ ", " ++ toString len
  | .i2cStop => "I2C.STOP"

/-- The pseudo-operation I2C.WRITE_TXN addr, buf, len (30_encoding.md R109). -/
def writeTxn (addr : BitVec 7) (buf len : Nat) : List Instr := [.i2cStart addr .w, .i2cWrite buf len, .i2cStop]

/-- The pseudo-operation I2C.READ_AT addr, wbuf, rbuf, len (30_encoding.md R109). -/
def readAt (addr : BitVec 7) (wbuf rbuf len : Nat) : List Instr :=
  [.i2cStart addr .w, .i2cWrite wbuf 1, .i2cRestart addr .r, .i2cRead rbuf len, .i2cStop]

end Sys2Proof.Machine
end

