-- ==== Sys2Proof/Machine/Devices.lean ====
section
/-! DEFINITION. The test devices of 95_test_vectors.md section 3.1 (92_eei_decisions.md D36), which the premise
ENV_DEVICE of 44_autonomous_steps.md R219 names. They are the spec's test environment, no part of the machine: no
step uses this file. -/

namespace Sys2Proof.Machine

/-- What the next bus phase of the running operation puts to a slave. -/
inductive BusPhase where
  | address (a : BitVec 7) (d : Dir)
  | write (b : Byte)
  | read
  deriving DecidableEq, Repr

/-- The host's next step is a SendStopCondition that takes the slave's extra byte (43_i2c_master.md R177). -/
def State.takesExtra (s : State) : Bool :=
  s.host.op.isNone && s.current == some .i2cStop && i2cClk s && s.i2c.inited && s.i2c.role != .idle && s.i2c.rxTail

/-- The bus phase the host's next step makes, if it makes one with a slave (10_state.md R40). -/
def State.nextPhase (s : State) : Option BusPhase :=
  match s.host.op with
  | some (.addrPhase _ a d) => some (.address a d)
  | some (.txPhase buf _ i) => some (.write (s.byteAt (buf + i)))
  | some (.rxPhase _ _ _) => some .read
  | _ => if s.takesExtra then some .read else none

/-- The 7-bit address of the transaction a wire trace stands in: that of its last address byte. -/
def wireAddress (wire : List WireEvent) : Option (BitVec 7) :=
  wire.foldl (fun a e => match e with | .addr b _ => some (b.extractLsb' 1 7) | _ => a) none

/-- The 7-bit address of the transaction that a bus phase belongs to. -/
def State.phaseAddress (s : State) : BusPhase → Option (BitVec 7)
  | .address a _ => some a
  | .write _ => wireAddress s.wire
  | .read => wireAddress s.wire

/-- What a device answers: an acknowledge bit, a byte, or nothing (it is not addressed). -/
inductive PhaseAnswer where
  | response (r : TxResp)
  | data (v : Byte)
  | silent
  deriving DecidableEq, Repr

/-- The draws of the host's next step are the device's answer (44_autonomous_steps.md R214): a received byte is drawn as
RxResp, the extra byte of a SendStopCondition as a u8. -/
def PhaseAnswer.agrees (p : PhaseAnswer) (s : State) : Bool :=
  match p with
  | .response r => s.draw.tx == .answer r
  | .data v => if s.takesExtra then s.draw.extra == v else s.draw.rx == .data v
  | .silent => true

/-- How far a device is in a transaction: not addressed, its pointer byte is next, or data. -/
inductive Phase where
  | off | pointer | data
  deriving DecidableEq, Repr, Inhabited

/-- D_RTC (95_test_vectors.md 3.1): a register file of 256 bytes and a register pointer. -/
structure Rtc where
  reg : Vector Byte 256
  ptr : Byte
  phase : Phase
  deriving DecidableEq, Repr, Inhabited

/-- The 7-bit address of D_RTC. -/
def Rtc.address : BitVec 7 := 0x68

/-- D_RTC's answer to a bus phase. -/
def Rtc.answer (x : Rtc) (p : BusPhase) : Rtc × PhaseAnswer :=
  match p with
  | .address a d =>
    if a = Rtc.address then ({ x with phase := if d = .w then .pointer else .data }, .response .ack)
    else ({ x with phase := .off }, .silent)
  | .write b =>
    match x.phase with
    | .off => (x, .silent)
    | .pointer => ({ x with ptr := b, phase := .data }, .response .ack)
    | .data => ({ x with reg := x.reg.set x.ptr.toNat b x.ptr.isLt, ptr := x.ptr + 1 }, .response .ack)
  | .read =>
    match x.phase with
    | .off => (x, .silent)
    | _ => ({ x with ptr := x.ptr + 1 }, .data x.reg[x.ptr.toNat])

/-- The state of D_EEPROM(cs) (95_test_vectors.md 3.1): 1024 cells and a current address. -/
structure Eeprom where
  cell : Vector Byte 1024
  ptr : BitVec 10
  blk : BitVec 2
  phase : Phase
  deriving DecidableEq, Repr, Inhabited

/-- The four addresses `0x50 | cs << 2 | blk` of D_EEPROM(cs). -/
def Eeprom.addressed (cs : BitVec 1) (a : BitVec 7) : Bool := a.extractLsb' 2 5 == 0b10100#5 ||| cs.setWidth 5

/-- The pointer after a written byte wraps within its 16-byte page (70_reset_and_hazards.md R278). -/
def pageNext (p : BitVec 10) : BitVec 10 := (p &&& ~~~(0xF#10)) ||| ((p + 1) &&& 0xF#10)

/-- The answer of D_EEPROM(cs) to a bus phase. -/
def Eeprom.answer (cs : BitVec 1) (x : Eeprom) (p : BusPhase) : Eeprom × PhaseAnswer :=
  match p with
  | .address a d =>
    if Eeprom.addressed cs a then
      ({ x with blk := a.extractLsb' 0 2, phase := if d = .w then .pointer else .data }, .response .ack)
    else ({ x with phase := .off }, .silent)
  | .write b =>
    match x.phase with
    | .off => (x, .silent)
    | .pointer => ({ x with ptr := x.blk ++ b, phase := .data }, .response .ack)
    | .data => ({ x with cell := x.cell.set x.ptr.toNat b x.ptr.isLt, ptr := pageNext x.ptr }, .response .ack)
  | .read =>
    match x.phase with
    | .off => (x, .silent)
    | _ => ({ x with ptr := x.ptr + 1 }, .data x.cell[x.ptr.toNat])

/-- D_ABSENT at address `a`: its address byte gives Nack. -/
def absentAnswer (a : BitVec 7) (p : BusPhase) : PhaseAnswer :=
  match p with
  | .address b _ => if b = a then .response .nack else .silent
  | .write _ => .silent
  | .read => .silent

end Sys2Proof.Machine
end

