-- ==== Sys2Proof/Machine/Registers.lean ====
section
/-! DEFINITION. The register binding of 10_state.md section 5 as views of the abstract state: what each register's
word is, computed from the one place each field is kept (R50 to R63). The section is informative: no operation
reads or writes a register by address (20_memory.md R73), so no step uses this file (notes/assumptions 17). -/

namespace Sys2Proof.Machine

/-- A field at bit `lo` of a register. -/
def regField {n : Nat} (v : BitVec n) (lo : Nat) : Word := v.setWidth 32 <<< lo

/-- One bit at bit `k` of a register. -/
def regBit (v : Bool) (k : Nat) : Word := regField (BitVec.ofBool v) k

/-- `enBit(s)` (10_state.md R51); the ready bit is the next one. -/
def enBit : Src → Nat
  | .hsi => 0
  | .hse => 16
  | .pll => 24
  | .plli2s => 26
  | .pllsai => 28

/-- The two bits of a source in RCC_CR (10_state.md R51). -/
def srcBits (s : State) (x : Src) : Word := regBit (s.rcc.on.get x) (enBit x) ||| regBit (s.rcc.rdy.get x) (enBit x + 1)

/-- RCC_CR (10_state.md R51), with HSITRIM at its reset code and the factory HSICAL byte. -/
def rccCr (s : State) : Word :=
  srcBits s .hsi ||| regField (0x10#5) 3 ||| regField Config.hsical 8 ||| srcBits s .hse ||| srcBits s .pll
    ||| srcBits s .plli2s ||| srcBits s .pllsai

/-- RCC_PLLCFGR (10_state.md R52). -/
def rccPllcfgr (s : State) : Word :=
  regField s.rcc.pll.m 0 ||| regField s.rcc.pll.n 6 ||| regField s.rcc.pll.p 16 ||| regField s.rcc.pll.src 22
    ||| regField s.rcc.pll.q 24 ||| regField s.rcc.pll.r 28

/-- RCC_CFGR (10_state.md R53). -/
def rccCfgr (s : State) : Word :=
  regField s.rcc.sw.code 0 ||| regField s.rcc.sws.code 2 ||| regField s.rcc.hpre 4 ||| regField s.rcc.ppre1 10
    ||| regField s.rcc.ppre2 13

/-! ### Bits and bytes of the I2C registers that only some states fix

The abstract state holds no transient flag (10_state.md R63). Each view below gives a bit where R56, R60, R61, R63 or
the realisations of 43_i2c_master.md section 3 state it, and none where they do not; a register word shows a free
value in its place. What they state depends on what has happened: the wire tells the bus events in order (R44), and the
operations before `host.pc` are those that have returned Ok (60_exceptions.md R232). -/

/-- The bit a register word shows: the stated one, or a free one. -/
def shownBit (s : State) (reg bit : Nat) (v : Option Bool) : Bool := v.getD (Config.unstatedBit s.env.turn reg bit)

/-- The operations that have returned Ok, the latest first: those before `host.pc` (10_state.md R37). -/
def completed (s : State) : List Command := (s.prog.take s.host.pc).reverse

/-- The operation at `host.pc` has returned Failed. -/
def hasFailed (s : State) : Bool := s.host.status == .halted .failed

/-- A data byte sent. -/
def WireEvent.isTx : WireEvent → Bool
  | .tx _ _ => true
  | _ => false

/-- A data byte received. -/
def WireEvent.isRx : WireEvent → Bool
  | .rx _ _ => true
  | _ => false

/-- How many events of a kind a list begins with. -/
def leading (p : WireEvent → Bool) (l : List WireEvent) : Nat := (l.takeWhile p).length

/-- How many wire events the operation at `host.pc` has added: by its position (10_state.md R40), or by the last events
where it has failed. An error-pending failure has added none (43_i2c_master.md R178). Bytes that an earlier transfer in
the same direction added just before count with those of a failed one: each leaves the flags as the next one does. -/
def ownEvents (s : State) : Nat :=
  match s.host.op with
  | some (.addrPhase _ _ _) => 1
  | some (.txPhase _ _ i) => i
  | some (.rxPhase _ _ i) => i
  | some (.clkPoll _ _) => 0
  | some (.busWait _ _) => 0
  | some (.repStart _ _) => 0
  | none =>
    if hasFailed s = false then 0
    else
      match s.current, s.wire.reverse with
      | some (.i2cStart _ _), .fail _ :: _ => 1
      | some (.i2cStart _ _), .addr _ _ :: _ => 2
      | some (.i2cRestart _ _), .fail _ :: _ => 1
      | some (.i2cRestart _ _), .addr _ _ :: _ => 2
      | some (.i2cWrite _ _), .tx b r :: l => leading WireEvent.isTx (.tx b r :: l)
      | some (.i2cRead _ _), .fail _ :: l => 1 + leading WireEvent.isRx l
      | _, _ => 0

/-- A ReadData has failed at a byte: the last wire event is a failure of a received byte (43_i2c_master.md R176). -/
def readFailed (s : State) : Bool :=
  match s.current with
  | some (.i2cRead _ _) => hasFailed s && 0 < ownEvents s
  | _ => false

/-- What the latest operation to say something says, of a list with the latest first. -/
def latest (f : Instr → Option Bool) : List Command → Option Bool
  | [] => none
  | w :: rest =>
    match decode w with
    | .error _ => latest f rest
    | .ok i =>
      match f i with
      | some v => some v
      | none => latest f rest

/-- A completed operation leaves a transaction open, or none (43_i2c_master.md R173, R174, R177). -/
def opensBus : Instr → Option Bool
  | .i2cStart _ _ => some true
  | .i2cRestart _ _ => some true
  | .i2cStop => some false
  | _ => none

/-- A completed SendStopCondition has sent a stop, for the operations before it and the wire to its end, each with the
latest first: a transaction was open. Where no operation before it says so, the wire does: the program began with a
transaction open, as a vector of 95_test_vectors.md section 0 may. -/
def sentStop (before : List Command) (wire : List WireEvent) : Bool :=
  (latest opensBus before).getD (wire.head? == some .stop)

/-- How many wire events a completed operation has added, for the operations before it and the wire to its end, each
with the latest first. Bytes of one direction that several transfers added in a row count with the latest of them, the
extra byte of a SendStopCondition with the read before it: no operation among them changes a flag without an event, but
for a read of no byte, whose RxNE the next received byte leaves as it is. -/
def addedEvents (i : Instr) (before : List Command) (wire : List WireEvent) : Nat :=
  match i with
  | .i2cStart _ _ => 2
  | .i2cRestart _ _ => 2
  | .i2cWrite _ len => if len = 0 then 0 else leading WireEvent.isTx wire
  | .i2cRead _ len => if len = 0 then 0 else leading WireEvent.isRx wire
  | .i2cStop => if sentStop before wire then 1 else 0
  | _ => 0

/-! ### I2C_CR1 -/

/-- START after a wire event: cleared when the start condition is sent (10_state.md R56). A failed start generation may
have left it set: no rule says. -/
def startAfter (v : Option Bool) : WireEvent → Option Bool
  | .start => some false
  | .repStart => some false
  | .fail _ => none
  | .stop => v
  | .addr _ _ => v
  | .tx _ _ => v
  | .rx _ _ => v

/-- I2C_CR1.START (10_state.md R56): 0 at reset; set by the start generation (43_i2c_master.md R181 step 2), so it
stays set where the start generation stalls. The failure of a received byte leaves it as it was. -/
def startBit (s : State) : Option Bool :=
  match s.host.hung, s.host.op with
  | some .stall, some (.busWait _ _) => some true
  | some .stall, some (.repStart _ _) => some true
  | _, _ => (if readFailed s then s.wire.dropLast else s.wire).foldl startAfter (some false)

/-- The operation gates the clock of the I2C instance in use. -/
def gatesI2c (p : Params) (bus : BitVec 3) (bit : Nat) : Bool := busOfCode bus == some .apb1 && bit == i2cGateBit p

/-- A completed operation leaves the I2C clock on, or off (41_rcc_bus.md R143, R144). -/
def clocksI2c (p : Params) : Instr → Option Bool
  | .periphEn bus bit => if gatesI2c p bus bit then some true else none
  | .periphDis bus bit => if gatesI2c p bus bit then some false else none
  | _ => none

/-- The I2C clock was on after the completed operations given, the latest first. It was off before the first one that
gates it (10_state.md R46); where none does, it is as it is now. -/
def clockAfter (s : State) (done : List Command) : Bool :=
  match latest (clocksI2c s.params) done with
  | some v => v
  | none => if (latest (clocksI2c s.params) (completed s)).isSome then false else i2cClk s

/-- STOP after the completed operations given and the wire to their end, each with the latest first (10_state.md R56;
43_i2c_master.md R177, R185). A stop that is sent is detected within its step, which clears STOP; with the clock off the
register is not written (43_i2c_master.md R170); a STOP set with no transaction open may stay set
(notes/assumptions 17). -/
def stopAfter (s : State) : List Command → List WireEvent → Option Bool
  | [], _ => some false
  | w :: rest, wire =>
    match decode w with
    | .ok .i2cStop =>
      if clockAfter s rest = false then stopAfter s rest wire else if sentStop rest wire then some false else none
    | .ok i => stopAfter s rest (wire.drop (addedEvents i rest wire))
    | .error _ => stopAfter s rest wire

/-- I2C_CR1.STOP (10_state.md R56). -/
def stopBit (s : State) : Option Bool := stopAfter s (completed s) (s.wire.reverse.drop (ownEvents s))

/-- I2C_CR1 (10_state.md R56): PE, START, STOP, ACK. -/
def i2cCr1 (s : State) : Word :=
  regBit s.i2c.pe 0 ||| regBit (shownBit s 0x00 8 (startBit s)) 8 ||| regBit (shownBit s 0x00 9 (stopBit s)) 9
    ||| regBit s.i2c.ack 10

/-- I2C_CR2: FREQ (10_state.md R57). -/
def i2cCr2 (s : State) : Word := regField s.i2c.freq 0

/-- I2C_OAR1 (10_state.md R58): `own` in bits 9:0 in 10-bit mode, `own[6:0]` in bits 7:1 in 7-bit mode. -/
def i2cOar1 (s : State) : Word :=
  if s.i2c.addmode = 1 then regField s.i2c.own 0 ||| regField s.i2c.addmode 15
  else regField (s.i2c.own.setWidth 7) 1

/-! ### I2C_SR1 -/

/-- The transient flags of I2C_SR1, each where the rules state it, and what the byte in I2C_DR depends on. -/
structure TransientFlags where
  sb : Option Bool
  addr : Option Bool
  btf : Option Bool
  rxne : Option Bool
  txe : Option Bool
  /-- A byte may have been received since I2C_DR was last written or read. -/
  unread : Bool
  /-- The slave may be sending a byte: an acknowledged read address or an acknowledged received byte came last. -/
  coming : Bool
  deriving DecidableEq, Repr

/-- Every transient flag 0: at reset, and after SendStopCondition (10_state.md R60, R63). -/
def clearFlags : TransientFlags := ⟨some false, some false, some false, some false, some false, false, false⟩

/-- A flag that an event may have cleared: a stated 0 stays 0. -/
def mayClear (v : Option Bool) : Option Bool := if v = some false then some false else none

/-- A byte the slave may be sending may have arrived: no rule says when it does (notes/assumptions 17). -/
def mayArrive (f : TransientFlags) : TransientFlags :=
  if f.coming then { f with btf := none, rxne := none, unread := true } else f

/-- The transient flags after a generated start or repeated start, which comes after the current byte transfer
(43_i2c_master.md R182) and ends what the slave sends. -/
def flagsAfterStart (f : TransientFlags) : TransientFlags :=
  { mayArrive f with sb := some true, btf := some false, txe := some false, coming := false }

/-- The transient flags after a wire event, by "set by hardware when" and "cleared by" of 10_state.md R60, the values
of R63 and the reads and writes of 43_i2c_master.md R181 to R185. Whether an address byte counts as the byte transfer of
BTF is not stated. A received byte has been read from DR, after SR1, which clears RxNE and BTF (R184). After an
acknowledged read address or received byte another byte may arrive, up to the next start, stop or failure; a stop clears
RxNE whether or not one has (R63). A failure sends and receives nothing else, but whose "start or stop" clears BTF and
TxE R60 does not say, and a failure may be another master's start or stop, or a misplaced one: a BTF or TxE that was 1
is free after it (notes/assumptions 17). -/
def flagsAfter (f : TransientFlags) : WireEvent → TransientFlags
  | .start => flagsAfterStart f
  | .repStart => flagsAfterStart f
  | .addr b .ack =>
    if b.getLsbD 0 then
      { f with sb := some false, addr := some false, btf := none, rxne := none, unread := true, coming := true }
    else
      { f with sb := some false, addr := some false, btf := none, txe := some true, unread := false, coming := false }
  | .addr b _ =>
    { f with
      sb := some false, addr := some false, btf := none, txe := if b.getLsbD 0 then f.txe else none
      unread := false, coming := false }
  | .tx _ .ack => { f with btf := some true, txe := some true, unread := false, coming := false }
  | .tx _ _ => { f with btf := none, txe := none, unread := false, coming := false }
  | .rx _ a => { f with btf := some false, rxne := some false, unread := false, coming := a }
  | .stop => { clearFlags with unread := f.unread || f.coming }
  | .fail _ => { mayArrive f with btf := mayClear (mayArrive f).btf, txe := mayClear f.txe }

/-- The transient flags after the events given, the latest first. -/
def flagsAfterAll (f : TransientFlags) (events : List WireEvent) : TransientFlags :=
  events.foldr (fun e g => flagsAfter g e) f

/-- What a completed operation states of the transient flags whether or not it has added an event (10_state.md R63). A
ReadData leaves RxNE 0. One of no byte clears nothing, so where the slave may be sending, RxNE = 0 says that no unread
byte has arrived yet; where it may not (after a stop has cleared RxNE), it shows nothing of I2C_DR
(notes/assumptions 17). A SendStopCondition that sends nothing leaves all flags 0. -/
def flagsAfterOk (f : TransientFlags) : Instr → TransientFlags
  | .i2cRead _ _ => { f with rxne := some false, unread := f.unread && !f.coming }
  | .i2cStop => flagsAfter f .stop
  | _ => f

/-- The transient flags that the completed operations given and the wire to their end leave, each with the latest
first: each operation's events, then what it states. What is left of the wire came before the program. -/
def flagsFrom : List Command → List WireEvent → TransientFlags
  | [], wire => flagsAfterAll clearFlags wire
  | w :: rest, wire =>
    match decode w with
    | .error _ => flagsFrom rest wire
    | .ok i =>
      let n := addedEvents i rest wire
      flagsAfterOk (flagsAfterAll (flagsFrom rest (wire.drop n)) (wire.take n)) i

/-- The transient flags the completed operations and the wire leave. The failure of a received byte changes none: the
byte has not arrived, and those before it have been read. -/
def wireFlags (s : State) : TransientFlags :=
  let own := s.wire.reverse.take (ownEvents s)
  flagsAfterAll (flagsFrom (completed s) (s.wire.reverse.drop (ownEvents s))) (if readFailed s then own.tail else own)

/-- The transient flags between two host steps. Where the host hangs, the poll that waits never sees its flag
(43_i2c_master.md R186): SB at a start generation and ADDR at an address byte, with SB cleared by the write of DR
(R181 step 4); BTF at a sent byte, for DR is written once TxE is seen (R183), and a TxE never seen leaves BTF clear;
RxNE at a received byte, as where the byte failed. Between two bytes of a read, and before a repeated start is
generated, the next ones may have arrived. -/
def transientFlags (s : State) : TransientFlags :=
  match s.host.hung, s.host.op, s.current with
  | some .stall, some (.addrPhase _ _ _), _ => { wireFlags s with sb := some false, addr := some false }
  | some .stall, some (.txPhase _ _ _), _ => { wireFlags s with btf := some false, txe := none }
  | some .stall, some (.rxPhase _ _ _), _ => { wireFlags s with rxne := some false, unread := false }
  | some .noTransaction, _, some (.i2cWrite _ _) => { wireFlags s with txe := some false }
  | some .noTransaction, _, some (.i2cRead _ _) => { wireFlags s with rxne := some false }
  | _, some (.repStart _ _), _ => mayArrive (wireFlags s)
  | none, some (.rxPhase _ _ _), _ => { wireFlags s with btf := none, rxne := none, unread := true }
  | _, _, _ => if readFailed s then { wireFlags s with rxne := some false, unread := false } else wireFlags s

/-- I2C_SR1 (10_state.md R60); every flag is cleared while PE = 0. -/
def i2cSr1 (s : State) : Word :=
  let f := transientFlags s
  if s.i2c.pe = false then 0
  else
    regBit (shownBit s 0x14 0 f.sb) 0 ||| regBit (shownBit s 0x14 1 f.addr) 1 ||| regBit (shownBit s 0x14 2 f.btf) 2
      ||| regBit (shownBit s 0x14 6 f.rxne) 6 ||| regBit (shownBit s 0x14 7 f.txe) 7 ||| regBit s.i2c.berr 8
      ||| regBit s.i2c.arlo 9 ||| regBit s.i2c.af 10

/-! ### I2C_DR -/

/-- The byte of a wire event that carries one. -/
def WireEvent.byte : WireEvent → Option Byte
  | .addr b _ => some b
  | .tx b _ => some b
  | .rx b _ => some b
  | .start => none
  | .repStart => none
  | .stop => none
  | .fail _ => none

/-- The byte last sent or received, 0 before any (10_state.md R59). -/
def lastByte (s : State) : Byte := ((s.wire.filterMap WireEvent.byte).getLast?).getD 0

/-- The byte in I2C_DR (10_state.md R59): the byte being sent where a stalled step has written it (43_i2c_master.md
R181 step 4, R183), else the byte last sent or received. It is not stated where a byte may have been received since,
unread: after an acknowledged read address, also where a stop has cleared RxNE with no read of DR, and between two bytes
of a read (notes/assumptions 17). -/
def drByte (s : State) : Option Byte :=
  match s.host.hung, s.host.op with
  | some .stall, some (.addrPhase _ a d) => some (addrByte a d)
  | some .stall, some (.txPhase buf _ i) => if (wireFlags s).txe = some true then some (s.byteAt (buf + i)) else none
  | _, _ => if (transientFlags s).unread then none else some (lastByte s)

/-- I2C_DR (10_state.md R59). -/
def i2cDr (s : State) : Byte := (drByte s).getD (Config.unstatedByte s.env.turn)

/-! ### I2C_SR2 -/

/-- I2C_SR2.TRA: the direction while the controller is master (10_state.md R63). While the role is Idle it is 0 where no
address byte has been sent (R61 gives it from the R/W bit of one, and the reset value 0); after an address byte no rule
says what the end of the role leaves in it (R61, R63 and 43_i2c_master.md R185, R186 clear MSL and BUSY only), and it is
free (notes/assumptions 17). -/
def traBit (s : State) : Option Bool :=
  match s.i2c.role with
  | .master d => some (d == .w)
  | .idle =>
    if s.wire.any fun e =>
        match e with
        | .addr _ _ => true
        | _ => false
    then none else some false

/-- I2C_SR2 (10_state.md R61, R63): MSL, BUSY, TRA. -/
def i2cSr2 (s : State) : Word :=
  regBit (s.i2c.role != .idle) 0 ||| regBit s.i2c.busy 1 ||| regBit (shownBit s 0x18 2 (traBit s)) 2

/-- RCC's base address (10_state.md R50). -/
def rccBase : Nat := 0x40023800

/-- The base address of an I2C controller (10_state.md R50). -/
def i2cBase : I2cInst → Nat
  | .i2c1 => 0x40005400
  | .i2c2 => 0x40005800
  | .i2c3 => 0x40005C00

/-- The registers of RCC, by offset (10_state.md R51 to R54). -/
def rccRegister (s : State) (off : Nat) : Option Word :=
  if off = 0x00 then some (rccCr s)
  else if off = 0x04 then some (rccPllcfgr s)
  else if off = 0x08 then some (rccCfgr s)
  else if off = 0x30 then some s.rcc.enr.ahb1
  else if off = 0x34 then some s.rcc.enr.ahb2
  else if off = 0x38 then some s.rcc.enr.ahb3
  else if off = 0x40 then some s.rcc.enr.apb1
  else if off = 0x44 then some s.rcc.enr.apb2
  else none

/-- The registers of the I2C controller in use, by offset (10_state.md R56 to R62); OAR2, CCR, TRISE and FLTR keep
their reset values, since no operation writes them (R62). -/
def i2cRegister (s : State) (off : Nat) : Option Word :=
  if off = 0x00 then some (i2cCr1 s)
  else if off = 0x04 then some (i2cCr2 s)
  else if off = 0x08 then some (i2cOar1 s)
  else if off = 0x0C then some 0
  else if off = 0x10 then some (regField (i2cDr s) 0)
  else if off = 0x14 then some (i2cSr1 s)
  else if off = 0x18 then some (i2cSr2 s)
  else if off = 0x1C then some 0
  else if off = 0x20 then some 0x0002
  else if off = 0x24 then some 0
  else none

/-- The register at an address (10_state.md R50); none where the spec binds no register. -/
def registerAt (s : State) (a : Nat) : Option Word :=
  if rccBase ≤ a ∧ a < rccBase + 0x400 then rccRegister s (a - rccBase)
  else if i2cBase s.params.i2cInst ≤ a ∧ a < i2cBase s.params.i2cInst + 0x400 then
    i2cRegister s (a - i2cBase s.params.i2cInst)
  else none

/-- The named bits of the AHB gate words (10_state.md R54, R55). -/
def ahbGateNames : List (Bus × Nat × String) := [
  (.ahb1, 0, "GPIOAEN"), (.ahb1, 1, "GPIOBEN"), (.ahb1, 2, "GPIOCEN"), (.ahb1, 3, "GPIODEN"), (.ahb1, 4, "GPIOEEN"),
  (.ahb1, 5, "GPIOFEN"), (.ahb1, 6, "GPIOGEN"), (.ahb1, 7, "GPIOHEN"), (.ahb1, 12, "CRCEN"), (.ahb1, 18, "BKPSRAMEN"),
  (.ahb1, 21, "DMA1EN"), (.ahb1, 22, "DMA2EN"), (.ahb1, 29, "OTGHSEN"), (.ahb1, 30, "OTGHSULPIEN"),
  (.ahb2, 0, "DCMIEN"), (.ahb2, 7, "OTGFSEN"), (.ahb3, 0, "FMCEN"), (.ahb3, 1, "QSPIEN")]

/-- The named bits of the APB1 gate word (10_state.md R55). -/
def apb1GateNames : List (Bus × Nat × String) := [
  (.apb1, 0, "TIM2EN"), (.apb1, 1, "TIM3EN"), (.apb1, 2, "TIM4EN"), (.apb1, 3, "TIM5EN"), (.apb1, 4, "TIM6EN"),
  (.apb1, 5, "TIM7EN"), (.apb1, 6, "TIM12EN"), (.apb1, 7, "TIM13EN"), (.apb1, 8, "TIM14EN"), (.apb1, 11, "WWDGEN"),
  (.apb1, 14, "SPI2EN"), (.apb1, 15, "SPI3EN"), (.apb1, 16, "SPDIFRXEN"), (.apb1, 17, "USART2EN"),
  (.apb1, 18, "USART3EN"), (.apb1, 19, "UART4EN"), (.apb1, 20, "UART5EN"), (.apb1, 21, "I2C1EN"), (.apb1, 22, "I2C2EN"),
  (.apb1, 23, "I2C3EN"), (.apb1, 24, "FMPI2C1EN"), (.apb1, 25, "CAN1EN"), (.apb1, 26, "CAN2EN"), (.apb1, 27, "CECEN"),
  (.apb1, 28, "PWREN"), (.apb1, 29, "DACEN")]

/-- The named bits of the APB2 gate word (10_state.md R55). -/
def apb2GateNames : List (Bus × Nat × String) := [
  (.apb2, 0, "TIM1EN"), (.apb2, 1, "TIM8EN"), (.apb2, 4, "USART1EN"), (.apb2, 5, "USART6EN"), (.apb2, 8, "ADC1EN"),
  (.apb2, 9, "ADC2EN"), (.apb2, 10, "ADC3EN"), (.apb2, 11, "SDIOEN"), (.apb2, 12, "SPI1EN"), (.apb2, 13, "SPI4EN"),
  (.apb2, 14, "SYSCFGEN"), (.apb2, 16, "TIM9EN"), (.apb2, 17, "TIM10EN"), (.apb2, 18, "TIM11EN"), (.apb2, 22, "SAI1EN"),
  (.apb2, 23, "SAI2EN")]

end Sys2Proof.Machine
end

