-- ==== Sys2Proof/Safety.lean ====
section
/-! DEFINITION. What counts as a good state and a good run, in the terms the statements use: final states and their
observation (60_exceptions.md R233), the invariants the spec derives (40_rcc_clock.md R125, 41_rcc_bus.md R146,
43_i2c_master.md R187, R188), and the fairness and environment premises of 44_autonomous_steps.md R219. -/

namespace Sys2Proof.Machine

/-! ### Final states (60_exceptions.md R233) -/

/-- The host has stopped: Done or Halted. -/
def Status.stopped : Status → Bool
  | .running => false
  | .done => true
  | .halted _ => true

/-- A final state: the host is Done or Halted, and nothing was refused. -/
def State.final (s : State) : Bool := s.host.status.stopped && s.refused.isNone

/-- The observation of a final state. -/
structure Observation where
  status : Status
  res : Result
  val : BitVec 2
  rcc : Rcc
  i2c : I2c
  mem : Memory
  wire : List WireEvent
  deriving DecidableEq, Repr

/-- What is observed of a final state. -/
def State.observe (s : State) : Observation :=
  { status := s.host.status, res := s.host.res, val := s.host.val, rcc := s.rcc, i2c := s.i2c, mem := s.host.mem
    wire := s.wire }

/-! ### The effect of one host step, in the terms the rules use -/

/-- The host rule (60_exceptions.md R232): the operation at `pc` returned `r`. -/
structure Returned (r : Result) (s t : State) : Prop where
  res : t.host.res = r
  op : t.host.op = none
  pc : t.host.pc = if r = .ok then s.host.pc + 1 else s.host.pc
  status : t.host.status =
    if r = .ok then (if s.host.pc + 1 = s.prog.length then .done else s.host.status) else .halted r

/-- What a step of an operation leaves as it was unless its rule says otherwise: the value of GetSystemClock, every
byte of host memory, the marks of a hang and of a refusal, and the arguments of the run. -/
structure Undisturbed (s t : State) : Prop where
  val : t.host.val = s.host.val
  bytes : ∀ a, t.byteAt a = s.byteAt a
  hung : t.host.hung = s.host.hung
  refused : t.refused = s.refused
  prog : t.prog = s.prog
  params : t.params = s.params
  env : t.env = s.env

/-- `Undisturbed`, but for one byte of host memory, which becomes `v`. -/
structure Stored (a : Nat) (v : Byte) (s t : State) : Prop where
  val : t.host.val = s.host.val
  bytes : ∀ x, t.byteAt x = if x = a then v else s.byteAt x
  hung : t.host.hung = s.host.hung
  refused : t.refused = s.refused
  prog : t.prog = s.prog
  params : t.params = s.params
  env : t.env = s.env

/-- The operation ends in result `r`, with the RCC and I2C parts given and the events given added to the wire, and
nothing else changed. -/
structure Ends (r : Result) (rcc : Rcc) (i2c : I2c) (events : List WireEvent) (s t : State) : Prop where
  returned : Returned r s t
  rcc : t.rcc = rcc
  i2c : t.i2c = i2c
  wire : t.wire = s.wire ++ events
  rest : Undisturbed s t

/-- The operation goes on at position `p`, with the RCC and I2C parts given and the events given added to the wire,
and nothing else changed. -/
structure Continues (p : Position) (rcc : Rcc) (i2c : I2c) (events : List WireEvent) (s t : State) : Prop where
  op : t.host.op = some p
  pc : t.host.pc = s.host.pc
  status : t.host.status = s.host.status
  res : t.host.res = s.host.res
  rcc : t.rcc = rcc
  i2c : t.i2c = i2c
  wire : t.wire = s.wire ++ events
  rest : Undisturbed s t

/-- A word decodes to the operation its fields make exactly when it has the fixed bits (30_encoding.md R91). -/
def DecodesTo (mask mtch : Command) (fields : Command → Instr) : Prop :=
  ∀ w, w &&& mask = mtch ↔ decode w = .ok (fields w)

/-- The failure update as a relation of the I2C part before and after (43_i2c_master.md R179), for the draws `drop`
and `busy` of a bus error. -/
def FailureUpdate (f : Failure) (drop busy : Bool) (x y : I2c) : Prop :=
  match f with
  | .nack => y = { x with af := true }
  | .arbLost => y = { x with arlo := true, role := .idle, busy := true }
  | .busError =>
    if drop then y = { x with berr := true, role := .idle, busy := busy } else y = { x with berr := true }

/-- The operation reports failure `f` and returns Failed, with the I2C part and the events that its rule gives before
the failure update (43_i2c_master.md R179). -/
def FailsWith (f : Failure) (before : I2c) (events : List WireEvent) (s t : State) : Prop :=
  FailureUpdate f s.draw.dropRole s.draw.busAfter before t.i2c ∧ Ends .failed s.rcc t.i2c events s t

/-- The operations of 30_encoding.md R92, without their operands. -/
inductive Op where
  | clkState | pllCfg | setSysClk | getSysClk | ahbPre | apb1Pre | apb2Pre | periphEn | periphDis | delayMs | delayUs
  | i2cInit | i2cStart | i2cRestart | i2cWrite | i2cRead | i2cStop
  deriving DecidableEq, Repr

/-- The operation of a decoded word. -/
def opOf : Instr → Op
  | .clkState _ _ => .clkState
  | .pllCfg _ _ _ _ _ _ _ => .pllCfg
  | .setSysClk _ => .setSysClk
  | .getSysClk => .getSysClk
  | .ahbPre _ => .ahbPre
  | .apb1Pre _ => .apb1Pre
  | .apb2Pre _ => .apb2Pre
  | .periphEn _ _ => .periphEn
  | .periphDis _ _ => .periphDis
  | .delayMs _ => .delayMs
  | .delayUs _ => .delayUs
  | .i2cInit _ _ _ => .i2cInit
  | .i2cStart _ _ => .i2cStart
  | .i2cRestart _ _ => .i2cRestart
  | .i2cWrite _ _ => .i2cWrite
  | .i2cRead _ _ => .i2cRead
  | .i2cStop => .i2cStop

/-- The results 60_exceptions.md R231 lists for an operation. -/
def resultsOf : Op → List Result
  | .clkState => [.ok, .timeout, .invalidClockState, .invalidClockType]
  | .pllCfg => [.ok, .nullArgument, .invalidPllSource]
  | .setSysClk => [.ok]
  | .getSysClk => [.ok]
  | .ahbPre => [.ok, .invalidPrescaler .ahb]
  | .apb1Pre => [.ok, .invalidPrescaler .apb1]
  | .apb2Pre => [.ok, .invalidPrescaler .apb2]
  | .periphEn => [.ok, .invalidBus, .peripheralEnableError]
  | .periphDis => [.ok, .invalidBus, .peripheralDisableError]
  | .delayMs => [.ok]
  | .delayUs => [.ok]
  | .i2cInit => [.ok]
  | .i2cStart => [.ok, .failed]
  | .i2cRestart => [.ok, .failed]
  | .i2cWrite => [.ok, .failed]
  | .i2cRead => [.ok, .failed]
  | .i2cStop => [.ok]

/-- The refusals 60_exceptions.md R231 lists for an operation. -/
def refusalsOf : Op → List RefusedReason
  | .clkState => [.disableInUse]
  | .pllCfg => [.pllConfigWhileEnabled]
  | .setSysClk => []
  | .getSysClk => []
  | .ahbPre => []
  | .apb1Pre => []
  | .apb2Pre => []
  | .periphEn => []
  | .periphDis => [.gateOffWhileMaster]
  | .delayMs => [.delayRange]
  | .delayUs => [.delayRange]
  | .i2cInit => [.i2cClockOff, .initWhileMaster]
  | .i2cStart => [.i2cClockOff, .i2cNotInitialised]
  | .i2cRestart => [.i2cClockOff, .i2cNotInitialised]
  | .i2cWrite => [.i2cClockOff, .i2cNotInitialised, .bufferRange, .directionMismatch]
  | .i2cRead => [.i2cClockOff, .i2cNotInitialised, .bufferRange, .directionMismatch]
  | .i2cStop => []

/-- The operations that may hang (60_exceptions.md R231, R237). -/
def mayHang (o : Op) : Bool := [Op.i2cStart, Op.i2cRestart, Op.i2cWrite, Op.i2cRead].contains o

/-- The operations of the I2C unit (30_encoding.md R92, UNIT 0x02). -/
def onI2c (o : Op) : Bool := [Op.i2cInit, Op.i2cStart, Op.i2cRestart, Op.i2cWrite, Op.i2cRead, Op.i2cStop].contains o

/-- The operations whose first step has the admission guard and the error-pending check (43_i2c_master.md R170,
R178). -/
def guarded (o : Op) : Bool := [Op.i2cStart, Op.i2cRestart, Op.i2cWrite, Op.i2cRead].contains o

/-! ### Coherence of the host -/

/-- The position is one of the operation's (10_state.md R40), with the locals its rule gives it. -/
def Position.belongs : Instr → Position → Prop
  | .clkState src _, .clkPoll x _ => srcOfCode src = some x
  | .i2cStart a d, .busWait x y => x = a ∧ y = d
  | .i2cStart a d, .addrPhase rep x y => rep = false ∧ x = a ∧ y = d
  | .i2cRestart a d, .busWait x y => x = a ∧ y = d
  | .i2cRestart a d, .repStart x y => x = a ∧ y = d
  | .i2cRestart a d, .addrPhase _ x y => x = a ∧ y = d
  | .i2cWrite buf len, .txPhase b n i => b = buf ∧ n = len ∧ i < len ∧ buf + len ≤ Memory.size
  | .i2cRead buf len, .rxPhase b n i => b = buf ∧ n = len ∧ i < len ∧ buf + len ≤ Memory.size
  | _, _ => False

/-- The host part is coherent (10_state.md R37, R40, R42; 60_exceptions.md R232): a Running host stands at an
operation, a Done host at the program's end, a Halted host keeps the result that halted it, which is not Ok; and an
open position is one of the operation at `pc`. -/
structure HostInv (s : State) : Prop where
  running : s.host.status = .running → s.host.pc < s.prog.length
  done : s.host.status = .done → s.host.pc = s.prog.length
  halted : ∀ r, s.host.status = .halted r → r ≠ .ok ∧ s.host.res = r
  stopped : s.host.status ≠ .running → s.host.op = none
  position : ∀ p, s.host.op = some p → ∃ i, s.current = some i ∧ p.belongs i

/-! ### Invariants of the RCC half (40_rcc_clock.md R125) and of the bus half (41_rcc_bus.md R146) -/

/-- The four invariants of 40_rcc_clock.md R125, and that a source being polled is on and Enabling. -/
structure RccInv (s : State) : Prop where
  ready : ∀ x, s.rcc.clk.get x = .ready → s.rcc.on.get x = true ∧ s.rcc.rdy.get x = true
  swsReady : s.rcc.rdy.get (srcOf s.rcc.sws) = true
  swsOn : s.rcc.on.get (srcOf s.rcc.sws) = true
  enabling : ∀ x, s.rcc.clk.get x = .enabling → ∃ k, s.host.op = some (.clkPoll x k)
  polled : ∀ x k, s.host.op = some (.clkPoll x k) → s.rcc.on.get x = true ∧ s.rcc.clk.get x = .enabling

/-- The reset value of a gate word (10_state.md R46). -/
def enrReset (p : Params) (b : Bus) : Word := (Rcc.reset p.ahb1enrReset).enr.get b

/-- The invariants 1 and 2 of 41_rcc_bus.md R146. -/
structure BusInv (s : State) : Prop where
  hpre : s.rcc.hpre = 0 ∨ ∃ c ∈ s.params.ahbPrescLegal, s.rcc.hpre = c.setWidth 4
  ppre1 : s.rcc.ppre1 = 0 ∨ ∃ c ∈ s.params.apb1PrescLegal, s.rcc.ppre1 = c.setWidth 3
  ppre2 : s.rcc.ppre2 = 0 ∨ ∃ c ∈ s.params.apb2PrescLegal, s.rcc.ppre2 = c.setWidth 3
  gates : ∀ b k, legalBit s.params b k = false → (s.rcc.enr.get b).getLsbD k = (enrReset s.params b).getLsbD k

/-! ### Invariants of the I2C half (43_i2c_master.md R187) -/

/-- The position is inside an I2C operation. -/
def Position.onBus : Position → Bool
  | .clkPoll _ _ => false
  | .busWait _ _ => true
  | .repStart _ _ => true
  | .addrPhase _ _ _ => true
  | .txPhase _ _ _ => true
  | .rxPhase _ _ _ => true

/-- The role the controller has at a position: an address phase and a byte phase have the bus in their direction
(43_i2c_master.md R172, R175, R176), a repeated start has it in some direction (R174). -/
def Position.fits : Position → Role → Prop
  | .clkPoll _ _, _ => True
  | .busWait _ _, _ => True
  | .repStart _ _, r => r ≠ .idle
  | .addrPhase _ _ d, r => r = .master d
  | .txPhase _ _ _, r => r = .master .w
  | .rxPhase _ _ _, r => r = .master .r

/-- The invariants 1 to 4 of 43_i2c_master.md R187; that Initialize enables the peripheral (R171); and that inside an
I2C operation what its earlier steps established still holds: `rxTail` is clear (R178), the guard holds (R170), and the
role fits the position. -/
structure I2cInv (s : State) : Prop where
  busy : s.i2c.role ≠ .idle → s.i2c.busy = true
  ready : s.i2c.role ≠ .idle → s.i2c.inited = true ∧ s.i2c.pe = true ∧ i2cClk s = true
  tailRole : s.i2c.rxTail = true → s.i2c.role = .master .r
  tailRace : s.i2c.rxTail = true → s.params.rxTailRace = true
  enabled : s.i2c.inited = true → s.i2c.pe = true
  inside : ∀ p, s.host.op = some p → p.onBus = true →
    s.i2c.rxTail = false ∧ i2cClk s = true ∧ s.i2c.inited = true ∧ p.fits s.i2c.role

/-- The acknowledge enable of a Running host is set only inside a ReadData, so no other operation finds it set
(10_state.md R32; 43_i2c_master.md R176 clears it for the last byte). -/
def AckInv (s : State) : Prop :=
  s.i2c.ack = true → s.host.status = .running → ∃ buf len i, s.host.op = some (.rxPhase buf len i)

/-- Everything the spec's invariants and the model's canonical forms say of a state. -/
structure State.Inv (s : State) : Prop where
  host : HostInv s
  rcc : RccInv s
  bus : BusInv s
  i2c : I2cInv s
  ack : AckInv s
  mem : s.host.mem.wf
  params : s.params.wf

/-! ### The shape of the wire trace (43_i2c_master.md R188) -/

/-- Where a wire trace stands. -/
inductive WireShape where
  /-- Nothing since the last Stop (R188, 1). -/
  | closed
  /-- After Start or RepStart: one Addr, or a Fail (R188, 2). -/
  | opened
  /-- After an acknowledged write address: only Tx (R188, 3). -/
  | sending
  /-- After an acknowledged read address: only Rx (R188, 4). -/
  | receiving
  /-- After an address that was not acknowledged, or a Fail: R188 constrains the bytes no further. -/
  | loose
  deriving DecidableEq, Repr, Inhabited

/-- The next event keeps the shape of 43_i2c_master.md R188, or none. -/
def WireShape.next (w : WireShape) (e : WireEvent) : Option WireShape :=
  match w, e with
  | .closed, .start => some .opened
  | .closed, .fail _ => some .loose
  | .closed, _ => none
  | .opened, .addr b .ack => some (if b.getLsbD 0 then .receiving else .sending)
  | .opened, .addr _ _ => some .loose
  | .opened, .fail _ => some .loose
  | .opened, _ => none
  | _, .start => some .opened
  | _, .repStart => some .opened
  | _, .stop => some .closed
  | _, .fail _ => some .loose
  | .sending, .tx _ _ => some .sending
  | .receiving, .rx _ _ => some .receiving
  | .loose, .tx _ _ => some .loose
  | .loose, .rx _ _ => some .loose
  | _, _ => none

/-- Where a whole trace stands, or none if it has not the shape. -/
def wireShape : List WireEvent → Option WireShape :=
  List.foldl (fun w e => w.bind (fun x => x.next e)) (some .closed)

/-- The wire has the shape of 43_i2c_master.md R188, and its place fits the role and the position: after a Stop the
controller is Idle, an address byte is next exactly where a start has been generated, and the role follows the
acknowledged address. -/
structure WireInv (s : State) : Prop where
  shape : ∃ w, wireShape s.wire = some w ∧
    (w = .closed → s.i2c.role = .idle) ∧
    (w = .opened ↔ ∃ rep a d, s.host.op = some (.addrPhase rep a d)) ∧
    (w = .sending → s.i2c.role ≠ .master .r) ∧
    (w = .receiving → s.i2c.role ≠ .master .w)

/-! ### Runs, fairness and environment premises (44_autonomous_steps.md R219) -/

/-- A run: each state is the step of the one before. -/
def Run (r : Nat → State) : Prop := ∀ n, step (r n) = .next (r (n + 1))

/-- The step takes the autonomous move: it is the current choice, and the state admits it. -/
def State.takes (m : Move) (s : State) : Prop := s.choice.move = some m ∧ moveEnabled m s = true

/-- Weak fairness of a move: it is not enabled for ever from some point on without being taken. -/
def WeaklyFair (m : Move) (r : Nat → State) : Prop :=
  ∀ n, ∃ k ≥ n, moveEnabled m (r k) = false ∨ (r k).takes m

/-- The host waits for a free bus (43_i2c_master.md R172, `await`). -/
def State.waits (s : State) : Bool :=
  match s.host.op with
  | some (.busWait _ _) => s.i2c.busy
  | _ => false

/-- The host is Running and has an enabled step: nothing was refused, it does not hang, a word is at `pc`, and it does
not wait for the bus. -/
def State.hostEnabled (s : State) : Bool := s.hostRuns && s.fetch.isSome && !s.waits

/-- Weak fairness of the host: it is not enabled for ever from some point on without taking a step. -/
def HostFair (r : Nat → State) : Prop := ∀ n, ∃ k ≥ n, (r k).hostEnabled = false ∨ (r k).choice.move = none

/-- The fairness of 44_autonomous_steps.md R219: ready falls, the SYSCLK switch, and the host. -/
def Fair (r : Nat → State) : Prop := (∀ x, WeaklyFair (.readyFalls x) r) ∧ WeaklyFair .switchSysclk r ∧ HostFair r

/-- The step from `s` to `t` is the first step of SetClockState(x, On). -/
def SwitchesOn (x : Src) (s t : State) : Prop := s.host.op = none ∧ t.host.op = some (.clkPoll x 0)

/-- ENV_OSC(s, k), 1 ≤ k ≤ P_CEIL: after every first step of SetClockState(s, On) and before its poll k the
environment takes 44_autonomous_steps.md R210 for s. Where the flag is already set after the first step, R210 has no
step, and nothing is asked. -/
def EnvOsc (x : Src) (k : Nat) (r : Nat → State) : Prop :=
  1 ≤ k ∧ k ≤ (r 0).params.ceil ∧
  ∀ n, SwitchesOn x (r n) (r (n + 1)) → (r (n + 1)).rcc.rdy.get x = false →
    ∃ m > n, (r m).takes (.readyRises x) ∧ ∀ l, n < l → l ≤ m → ∃ j < k, (r l).host.op = some (.clkPoll x j)

/-- ENV_OSC_NEVER(s): 44_autonomous_steps.md R210 is never taken for s. -/
def EnvOscNever (x : Src) (r : Nat → State) : Prop := ∀ n, ¬ (r n).takes (.readyRises x)

/-- No draw of the step is ArbLost or BusError. -/
def drawClean (d : Draw) : Bool :=
  (match d.start with | .fail _ => false | _ => true)
    && (match d.tx with | .answer .arbLost => false | .answer .busError => false | _ => true)
    && (match d.rx with | .fail _ => false | _ => true)

/-- ENV_SOLE_MASTER: 44_autonomous_steps.md R217 never sets `busy`, and no draw is ArbLost or BusError. -/
def EnvSoleMaster (r : Nat → State) : Prop := ∀ n, ¬ (r n).takes (.busChange true) ∧ drawClean (r n).draw = true

/-- ENV_NO_STALL: no draw is Stall. -/
def EnvNoStall (r : Nat → State) : Prop :=
  ∀ n, (r n).draw.start ≠ .stall ∧ (r n).draw.tx ≠ .stall ∧ (r n).draw.rx ≠ .stall

/-- ENV_NO_STALE: every error-pending draw is false. -/
def EnvNoStale (r : Nat → State) : Prop := ∀ n, (r n).draw.stale = false

/-- ENV_DEVICE(a, D): every draw of a transaction addressed to `a` is the one the device D gives. D is its answer
function; its state starts anywhere and moves with every bus phase of the host, since a phase to another address ends
its transaction. The extra byte of a SendStopCondition is a read phase of the transaction it ends
(43_i2c_master.md R177). -/
def EnvDevice {σ : Type} (a : BitVec 7) (answer : σ → BusPhase → σ × PhaseAnswer) (r : Nat → State) : Prop :=
  ∃ dev : Nat → σ, ∀ n,
    match (r n).choice.move, (r n).hostRuns, (r n).nextPhase with
    | none, true, some p =>
      dev (n + 1) = (answer (dev n) p).1 ∧
        ((r n).phaseAddress p = some a → (answer (dev n) p).2.agrees (r n) = true)
    | _, _, _ => dev (n + 1) = dev n

/-- ENV_DEVICE(a, D_RTC) (95_test_vectors.md 3.1). -/
def EnvRtc (a : BitVec 7) (r : Nat → State) : Prop := EnvDevice a Rtc.answer r

/-- ENV_DEVICE(a, D_EEPROM(cs)) (95_test_vectors.md 3.1). -/
def EnvEeprom (a : BitVec 7) (cs : BitVec 1) (r : Nat → State) : Prop := EnvDevice a (Eeprom.answer cs) r

/-- ENV_DEVICE(a, D_ABSENT) (95_test_vectors.md 3.1). -/
def EnvAbsent (a : BitVec 7) (r : Nat → State) : Prop :=
  EnvDevice a (fun (x : Unit) p => (x, absentAnswer a p)) r

end Sys2Proof.Machine
end

