-- ==== Sys2Proof/Certificates/Slice0/Obligations.lean ====
section
/-! DEFINITION. The statements for the provers. Each says in its docstring which rule of spec/ it formalises, or, where
it rests on a derived sentence of the spec or on a choice of the model, which one. `exec i s` is the host's next atomic
step of the operation `i` (10_state.md R40): its first step where `s.host.op = none`. -/

open Sys2Proof Sys2Proof.Machine

/-! ### Encoding (30_encoding.md) -/

/-- Decoding the word of an operation gives the operation back, every operand at every value its field can hold
(30_encoding.md sections 1 to 3). -/
def Obligations.DecodeOfEncode : Prop := ∀ i : Instr, i.WellFormed → decode (encode i) = .ok i

/-- A word that decodes has no bit the operation does not account for: encoding what it decodes to gives it back
(30_encoding.md sections 1 to 3). -/
def Obligations.EncodeOfDecode : Prop := ∀ (w : Command) (i : Instr), decode w = .ok i → i.WellFormed ∧ encode i = w

/-- 30_encoding.md R91: a word decodes to an operation exactly when it has the fixed bits of the operation's row; at
most one row matches; the host refuses a word that matches no row; an operand value the operation does not accept (a
clock-source code 5, a bus code 7) is no decoding error, and the operation returns its error result. -/
def Obligations.DecodesExactlyByRow : Prop :=
  (∀ (w : Command) (i : Instr), decode w = .ok i ↔ ∃ r ∈ opcodeTable, w &&& r.mask = r.mtch ∧ r.build w = i) ∧
  (∀ w : Command, (opcodeTable.filter (fun r => r.hits w)).length ≤ 1) ∧
  (∀ (s : State) (w : Command), s.choice.move = none → s.hostRuns = true → s.fetch = some w →
    (∀ r ∈ opcodeTable, w &&& r.mask ≠ r.mtch) →
    step s = .next ({ s with refused := some .invalidCommand } : State).advance) ∧
  (∀ (s : State) (state : BitVec 2), s.host.op = none →
    decode (encode (.clkState 5 state)) = .ok (.clkState 5 state) ∧
    ∃ t, exec (.clkState 5 state) s = .next t ∧ Returned .invalidClockType s t) ∧
  (∀ (s : State) (bit : Nat), bit < 2 ^ 8 →
    decode (encode (.periphEn 7 bit)) = .ok (.periphEn 7 bit) ∧
    ∃ t, exec (.periphEn 7 bit) s = .next t ∧ Returned .invalidBus s t)

/-- 30_encoding.md R106: the words that decode to no operation are exactly those with an unknown UNIT, an OP above the
unit's last, or a reserved bit set under a defined UNIT:OP, so there is no hint, no-op or custom space; the host refuses
each of them. -/
def Obligations.IllegalWordsRejected : Prop :=
  (∀ w : Command, (∃ e, decode w = .error e) ↔
    ((field w 56 8 ≠ 1 ∧ field w 56 8 ≠ 2 ∧ field w 56 8 ≠ 3) ∨
     (field w 56 8 = 1 ∧ 8 < (field w 48 8).toNat) ∨
     (field w 56 8 = 2 ∧ 5 < (field w 48 8).toNat) ∨
     (field w 56 8 = 3 ∧ 1 < (field w 48 8).toNat) ∨
     (∃ r ∈ opcodeTable, field w 48 16 = field r.mtch 48 16 ∧ w &&& r.mask ≠ r.mtch))) ∧
  (∀ (s : State) (w : Command) (e : DecodeError), s.choice.move = none → s.hostRuns = true → s.fetch = some w →
    decode w = .error e → step s = .next ({ s with refused := some .invalidCommand } : State).advance)

/-- The encoding examples of the spec (30_encoding.md section 5, the table under R110, which the spec marks derived)
and of 40_rcc_clock.md to 43_i2c_master.md, and the word of vector I2C-14 of 95_test_vectors.md, decode to the
operation they stand for. -/
def Obligations.SpecWordsDecode : Prop :=
  decode 0x0100000000000011 = .ok (.clkState 1 1) ∧
  decode 0x0100000000000002 = .ok (.clkState 2 0) ∧
  decode 0x0101000022402D08 = .ok (.pllCfg 8 180 0 1 2 2 false) ∧
  decode 0x0101800000000000 = .ok (.pllCfg 0 0 0 0 0 0 true) ∧
  decode 0x0102000000000002 = .ok (.setSysClk .pllp) ∧
  decode 0x0103000000000000 = .ok .getSysClk ∧
  decode 0x0104000000000008 = .ok (.ahbPre 8) ∧
  decode 0x0107000000001503 = .ok (.periphEn 3 21) ∧
  decode 0x0108000000000701 = .ok (.periphDis 1 7) ∧
  decode 0x0300000000000005 = .ok (.delayMs 5) ∧
  decode 0x0200000000000010 = .ok (.i2cInit 16 0 0) ∧
  decode 0x0201000000000068 = .ok (.i2cStart 0x68 .w) ∧
  decode 0x020100000000017F = .ok (.i2cStart 0x7F .r) ∧
  decode 0x0202000000000150 = .ok (.i2cRestart 0x50 .r) ∧
  decode 0x0203200000000008 = .ok (.i2cWrite 0x20000000 8) ∧
  decode 0x0204200001000007 = .ok (.i2cRead 0x20000100 7) ∧
  decode 0x0205000000000000 = .ok .i2cStop

/-- 30_encoding.md R107: reserved field values decode and make the operation return its error result; NUL = 1 makes
SetPLLConfig return NullArgument. -/
def Obligations.ReservedFieldValuesReturnErrors : Prop :=
  (∀ (src : BitVec 3) (state : BitVec 2) (s : State), s.host.op = none → 5 ≤ src.toNat →
    decode (encode (.clkState src state)) = .ok (.clkState src state) ∧
    ∃ t, exec (.clkState src state) s = .next t ∧ Returned .invalidClockType s t) ∧
  (∀ (src : BitVec 3) (state : BitVec 2) (s : State), s.host.op = none → src.toNat ≤ 4 → 2 ≤ state.toNat →
    decode (encode (.clkState src state)) = .ok (.clkState src state) ∧
    ∃ t, exec (.clkState src state) s = .next t ∧ Returned .invalidClockState s t) ∧
  (∀ (m : BitVec 6) (n : BitVec 9) (p psrc : BitVec 2) (q : BitVec 4) (r : BitVec 3) (s : State),
    2 ≤ psrc.toNat → anyPllLive s = false →
    decode (encode (.pllCfg m n p psrc q r false)) = .ok (.pllCfg m n p psrc q r false) ∧
    ∃ t, exec (.pllCfg m n p psrc q r false) s = .next t ∧ Returned .invalidPllSource s t) ∧
  (∀ (m : BitVec 6) (n : BitVec 9) (p psrc : BitVec 2) (q : BitVec 4) (r : BitVec 3) (s : State),
    decode (encode (.pllCfg m n p psrc q r true)) = .ok (.pllCfg m n p psrc q r true) ∧
    ∃ t, exec (.pllCfg m n p psrc q r true) s = .next t ∧ Returned .nullArgument s t) ∧
  (∀ (bus : BitVec 3) (bit : Nat) (s : State), 5 ≤ bus.toNat → bit < 2 ^ 8 →
    decode (encode (.periphEn bus bit)) = .ok (.periphEn bus bit) ∧
    decode (encode (.periphDis bus bit)) = .ok (.periphDis bus bit) ∧
    (∃ t, exec (.periphEn bus bit) s = .next t ∧ Returned .invalidBus s t) ∧
    (∃ t, exec (.periphDis bus bit) s = .next t ∧ Returned .invalidBus s t)) ∧
  (∀ (bus : BitVec 3) (b : Bus) (bit : Nat) (s : State), busOfCode bus = some b → bit < 2 ^ 8 →
    legalBit s.params b bit = false →
    decode (encode (.periphEn bus bit)) = .ok (.periphEn bus bit) ∧
    decode (encode (.periphDis bus bit)) = .ok (.periphDis bus bit) ∧
    (∃ t, exec (.periphEn bus bit) s = .next t ∧ Returned .peripheralEnableError s t) ∧
    (∃ t, exec (.periphDis bus bit) s = .next t ∧ Returned .peripheralDisableError s t)) ∧
  (∀ (code : Byte) (s : State),
    decode (encode (.ahbPre code)) = .ok (.ahbPre code) ∧
    decode (encode (.apb1Pre code)) = .ok (.apb1Pre code) ∧
    decode (encode (.apb2Pre code)) = .ok (.apb2Pre code) ∧
    (code ∉ s.params.ahbPrescLegal → ∃ t, exec (.ahbPre code) s = .next t ∧ Returned (.invalidPrescaler .ahb) s t) ∧
    (code ∉ s.params.apb1PrescLegal → ∃ t, exec (.apb1Pre code) s = .next t ∧ Returned (.invalidPrescaler .apb1) s t) ∧
    (code ∉ s.params.apb2PrescLegal → ∃ t, exec (.apb2Pre code) s = .next t ∧ Returned (.invalidPrescaler .apb2) s t))

/-! ### Reset, the host and the step (10_state.md, 44_autonomous_steps.md, 60_exceptions.md) -/

/-- 10_state.md R46: the reset values, for every program, launch memory, parameters and script. -/
def Obligations.ResetValues : Prop :=
  ∀ (prog : List Command) (mem : Memory) (params : Params) (script : List Choice) (s : State),
    s = State.launch prog mem params script →
    (∀ x, s.rcc.on.get x = decide (x = .hsi) ∧ s.rcc.rdy.get x = decide (x = .hsi) ∧
      s.rcc.clk.get x = if x = .hsi then .ready else .disabled) ∧
    s.rcc.pll.m = 16 ∧ s.rcc.pll.n = 192 ∧ s.rcc.pll.p = 0 ∧ s.rcc.pll.q = 4 ∧ s.rcc.pll.r = 2 ∧ s.rcc.pll.src = 0 ∧
    s.rcc.sw = .hsi ∧ s.rcc.sws = .hsi ∧ s.rcc.hpre = 0 ∧ s.rcc.ppre1 = 0 ∧ s.rcc.ppre2 = 0 ∧
    (∀ b, s.rcc.enr.get b = if b = .ahb1 then params.ahb1enrReset else 0) ∧
    s.i2c.inited = false ∧ s.i2c.pe = false ∧ s.i2c.freq = 0 ∧ s.i2c.addmode = 0 ∧ s.i2c.own = 0 ∧
    s.i2c.ack = false ∧ s.i2c.role = .idle ∧ s.i2c.busy = false ∧ s.i2c.af = false ∧ s.i2c.arlo = false ∧
    s.i2c.berr = false ∧ s.i2c.rxTail = false ∧
    s.host.pc = 0 ∧ s.host.status = (if prog = [] then .done else .running) ∧ s.host.op = none ∧ s.host.res = .ok ∧
    s.host.val = 0 ∧ s.host.mem = mem ∧ s.wire = [] ∧ s.refused = none

/-- A step runs the decoded operation: where the current choice gives the host the turn, the host may run and the word
at `pc` decodes, the step is the operation's, and then the choice is taken (60_exceptions.md section 2, the host rule's
first line on a Running host; the choice is the model's, notes/assumptions 2 and 3). -/
def Obligations.StepRunsDecodedInstruction : Prop :=
  ∀ (s : State) (w : Command) (i : Instr), s.choice.move = none → s.host.status = .running → s.refused = none →
    s.host.hung = none → s.prog[s.host.pc]? = some w → decode w = .ok i →
    step s = mapNext State.advance (exec i s)

/-- 60_exceptions.md R232: an operation that returns obeys the host rule; a Running host between operations takes the
first step of the operation at `pc`; a Done or Halted host takes no step. -/
def Obligations.HostRule : Prop :=
  (∀ (i : Instr) (s t : State), exec i s = .next t → t.refused = none → t.host.hung = none → t.host.op = none →
    Returned t.host.res s t) ∧
  (∀ (s : State) (i : Instr), s.choice.move = none → s.host.status = .running → s.host.op = none → s.refused = none →
    s.host.hung = none → s.current = some i → step s = mapNext State.advance (exec i s)) ∧
  (∀ s : State, s.choice.move = none → s.host.status ≠ .running → step s = .next s.advance)

/-- Each operation ends only in the results, refusals and hangs of the result table, and no operation faults where its
bytes are inside host memory (60_exceptions.md section 1, the result table; section 2, refusals and hangs). The fault
(notes/assumptions 16) and the mark of a hang (notes/assumptions 5) are the model's. -/
def Obligations.ResultTable : Prop :=
  ∀ (i : Instr) (s : State), s.refused = none → s.host.hung = none →
    (∀ b n k, (s.host.op = some (.txPhase b n k) ∨ s.host.op = some (.rxPhase b n k)) → b + k < 2 ^ 32) →
    ∃ t, exec i s = .next t ∧
      (∀ r, t.refused = some r → r ∈ refusalsOf (opOf i)) ∧
      (t.host.hung ≠ none → mayHang (opOf i) = true) ∧
      (t.refused = none → t.host.hung = none → t.host.op = none → t.host.res ∈ resultsOf (opOf i))

/-- 10_state.md R43: a refusal, once made, is never cleared, and a refused state is never final. -/
def Obligations.RefusalIsForGood : Prop :=
  (∀ (prog : List Command) (mem : Memory) (params : Params) (script : List Choice),
    (State.launch prog mem params script).refused = none) ∧
  (∀ (s t : State) (r : RefusedReason), step s = .next t → s.refused = some r → t.refused = some r) ∧
  (∀ s : State, s.refused ≠ none → s.final = false)

/-- A host that is refused, hangs, is Done or is Halted never moves again, whatever the environment does: 00_scope.md
section 5 (`raise`, `hang`), 60_exceptions.md section 2. The mark of a hang is the model's (notes/assumptions 5). -/
def Obligations.StoppedHostNeverMoves : Prop :=
  ∀ s : State, s.refused ≠ none ∨ s.host.hung ≠ none ∨ s.host.status ≠ .running →
    ∀ n : Nat, ∃ t : State, Host.Core.run Sys2Proof.core n s = .next t ∧ t.host = s.host ∧ t.refused = s.refused ∧
      t.wire = s.wire

/-- 44_autonomous_steps.md R213: any finite number of environment steps in any order may be taken between two host
steps, also while the host is halted, done, hung or refused; they change neither the host nor the wire, and each is one
whole step, so no draw of the host is made inside one. -/
def Obligations.EnvironmentStepsRun : Prop :=
  ∀ (moves : List (Move × Draw)) (rest : List Choice) (s : State),
    s.env.script = moves.map (fun p => { move := some p.1, draw := p.2 }) ++ rest →
    ∃ t : State, Host.Core.run Sys2Proof.core moves.length s = .next t ∧ t.host = s.host ∧ t.wire = s.wire ∧
      t.refused = s.refused ∧ t.env.script = rest ∧
      t.rcc = (moves.foldl (fun u p => envMove p.1 u) s).rcc ∧ t.i2c = (moves.foldl (fun u p => envMove p.1 u) s).i2c

/-- 44_autonomous_steps.md R210: in any state where a source is on and not ready, the oscillator environment has the
step that sets its ready flag, and nothing else changes; it depends neither on a PLL's input nor on the PLL codes. -/
def Obligations.ReadyRises : Prop :=
  ∀ (x : Src) (s : State), s.choice.move = some (.readyRises x) → s.rcc.on.get x = true → s.rcc.rdy.get x = false →
    ∃ t : State, step s = .next t ∧ t.rcc.rdy.get x = true ∧ (∀ y, y ≠ x → t.rcc.rdy.get y = s.rcc.rdy.get y) ∧
      { t.rcc with rdy := s.rcc.rdy } = s.rcc ∧ t.i2c = s.i2c ∧ t.host = s.host ∧ t.wire = s.wire ∧
      t.refused = s.refused

/-- The ready-falls step and the SYSCLK switch step: where its condition holds, each has its effect and changes nothing
else; where it does not, the move has no effect (44_autonomous_steps.md section 1; that a move the state does not admit
passes is the model's, notes/assumptions 3, and so is that weak fairness is a premise a claim takes). -/
def Obligations.ReadyFallsAndSwitch : Prop :=
  (∀ (x : Src) (s : State), s.choice.move = some (.readyFalls x) → s.rcc.on.get x = false → s.rcc.rdy.get x = true →
    ∃ t : State, step s = .next t ∧ t.rcc.rdy.get x = false ∧ (∀ y, y ≠ x → t.rcc.rdy.get y = s.rcc.rdy.get y) ∧
      { t.rcc with rdy := s.rcc.rdy } = s.rcc ∧ t.i2c = s.i2c ∧ t.host = s.host ∧ t.wire = s.wire ∧
      t.refused = s.refused) ∧
  (∀ (x : Src) (s : State), s.choice.move = some (.readyFalls x) →
    s.rcc.on.get x = true ∨ s.rcc.rdy.get x = false → step s = .next s.advance) ∧
  (∀ s : State, s.choice.move = some .switchSysclk → s.rcc.sws ≠ s.rcc.sw → s.rcc.on.get (srcOf s.rcc.sw) = true →
    s.rcc.rdy.get (srcOf s.rcc.sw) = true →
    ∃ t : State, step s = .next t ∧ t.rcc = { s.rcc with sws := s.rcc.sw } ∧ t.i2c = s.i2c ∧ t.host = s.host ∧
      t.wire = s.wire ∧ t.refused = s.refused) ∧
  (∀ s : State, s.choice.move = some .switchSysclk →
    s.rcc.sws = s.rcc.sw ∨ s.rcc.on.get (srcOf s.rcc.sw) = false ∨ s.rcc.rdy.get (srcOf s.rcc.sw) = false →
    step s = .next s.advance)

/-- 44_autonomous_steps.md R217: while the role is Idle the bus environment may write `busy` with either value; while
it is not, the environment does not write `busy`. A bus may stay busy for ever: nothing forces the step. -/
def Obligations.OtherMasters : Prop :=
  (∀ (b : Bool) (s : State), s.choice.move = some (.busChange b) → s.i2c.role = .idle →
    ∃ t : State, step s = .next t ∧ t.i2c = { s.i2c with busy := b } ∧ t.rcc = s.rcc ∧ t.host = s.host ∧
      t.wire = s.wire) ∧
  (∀ (m : Move) (s t : State), s.choice.move = some m → s.i2c.role ≠ .idle → step s = .next t → t.i2c = s.i2c) ∧
  (∀ (a : BitVec 7) (d : Dir) (s : State), s.host.op = some (.busWait a d) → s.i2c.busy = true →
    exec (.i2cStart a d) s = .next s)

/-- Only the SYSCLK switch changes `sws`, only to `sw`, and only while the target is on and ready; only the oscillator
moves change a ready flag (10_state.md sections 1 and 2, 44_autonomous_steps.md section 1). -/
def Obligations.StatusChangesOnlyByEnvironment : Prop :=
  ∀ s t : State, step s = .next t →
    (t.rcc.sws ≠ s.rcc.sws → s.choice.move = some .switchSysclk ∧ t.rcc.sws = s.rcc.sw ∧
      s.rcc.on.get (srcOf s.rcc.sw) = true ∧ s.rcc.rdy.get (srcOf s.rcc.sw) = true) ∧
    (∀ x, t.rcc.rdy.get x ≠ s.rcc.rdy.get x →
      (s.choice.move = some (.readyRises x) ∧ s.rcc.on.get x = true) ∨
      (s.choice.move = some (.readyFalls x) ∧ s.rcc.on.get x = false))

/-- Every step only appends events to the wire, and no step changes the program or the parameters, so no ReadData can
change what the host runs (20_memory.md section 5, trace order and instruction-fetch coherence; that the arguments of a
run stand in the state is the model's, notes/assumptions 1 and 2). -/
def Obligations.WireGrowsAndProgramStays : Prop :=
  ∀ s t : State, step s = .next t →
    s.wire <+: t.wire ∧ t.prog = s.prog ∧ t.params = s.params ∧ t.env.turn = s.env.turn + 1 ∧
    t.env.script = s.env.script.tail

/-! ### Frames and writers -/

/-- The fields that only one operation writes (10_state.md R24, R25, R27, R30 and the sections around them): each is
unchanged by every other operation, and no operation writes a ready flag or `sws`. -/
def Obligations.FieldWriters : Prop :=
  ∀ (i : Instr) (s t : State), exec i s = .next t →
    t.rcc.rdy = s.rcc.rdy ∧ t.rcc.sws = s.rcc.sws ∧ t.prog = s.prog ∧ t.params = s.params ∧ t.env = s.env ∧
    (opOf i ≠ .clkState → t.rcc.on = s.rcc.on ∧ t.rcc.clk = s.rcc.clk) ∧
    (opOf i ≠ .pllCfg → t.rcc.pll = s.rcc.pll) ∧
    (opOf i ≠ .setSysClk → t.rcc.sw = s.rcc.sw) ∧
    (opOf i ≠ .getSysClk → t.host.val = s.host.val) ∧
    (opOf i ≠ .ahbPre → t.rcc.hpre = s.rcc.hpre) ∧
    (opOf i ≠ .apb1Pre → t.rcc.ppre1 = s.rcc.ppre1) ∧
    (opOf i ≠ .apb2Pre → t.rcc.ppre2 = s.rcc.ppre2) ∧
    (opOf i ≠ .periphEn → opOf i ≠ .periphDis → t.rcc.enr = s.rcc.enr) ∧
    (opOf i ≠ .i2cInit → t.i2c.inited = s.i2c.inited ∧ t.i2c.pe = s.i2c.pe ∧
      t.i2c.freq = s.i2c.freq ∧ t.i2c.addmode = s.i2c.addmode ∧ t.i2c.own = s.i2c.own) ∧
    (opOf i ≠ .i2cRead → ∀ a, t.byteAt a = s.byteAt a)

/-- The frame of the RCC and delay operations: the I2C part, the wire, every byte of host memory and the mark of a hang
are unchanged; and SetClockState changes the enable bit and the phase of its own source only (the source its SRC names,
or, at a poll, the polled one) (40_rcc_clock.md, 41_rcc_bus.md, 42_delay.md: "Flags written" of each rule). -/
def Obligations.RccFrame : Prop :=
  ∀ (i : Instr) (s t : State), exec i s = .next t → onI2c (opOf i) = false →
    t.i2c = s.i2c ∧ t.wire = s.wire ∧ (∀ a, t.byteAt a = s.byteAt a) ∧ t.host.hung = s.host.hung ∧
    (∀ src state y, i = .clkState src state → srcOfCode src ≠ some y → (∀ k, s.host.op ≠ some (.clkPoll y k)) →
      t.rcc.on.get y = s.rcc.on.get y ∧ t.rcc.clk.get y = s.rcc.clk.get y)

/-- The frame of the gate operations: every gate bit but the one named, on the bus named, is unchanged (41_rcc_bus.md:
"Flags written" of both rules). -/
def Obligations.GateFrame : Prop :=
  ∀ (i : Instr) (bus : BitVec 3) (bit : Nat) (s t : State), i = .periphEn bus bit ∨ i = .periphDis bus bit →
    exec i s = .next t →
    (∀ (b : Bus) (k : Nat), busOfCode bus ≠ some b ∨ k ≠ bit →
      (t.rcc.enr.get b).getLsbD k = (s.rcc.enr.get b).getLsbD k)

/-- The frame of the I2C operations: the whole RCC part and the value of GetSystemClock are unchanged; the acknowledge
enable changes only in ReadData and Stop, and only in ReadData where the host runs the operation from a state with the
invariants, for there Stop finds it clear (notes/assumptions 12); `rxTail` becomes true only in ReadData; the bytes of
host memory change only at the byte a ReadData step stores, at the address BUF + i of its position (10_state.md section
3; 43_i2c_master.md: "Flags written" of each rule). -/
def Obligations.I2cFrame : Prop :=
  ∀ (i : Instr) (s t : State), exec i s = .next t → onI2c (opOf i) = true →
    t.rcc = s.rcc ∧ t.host.val = s.host.val ∧
    (opOf i ≠ .i2cRead → opOf i ≠ .i2cStop → t.i2c.ack = s.i2c.ack) ∧
    (s.Inv → s.host.status = .running → s.current = some i → opOf i ≠ .i2cRead → t.i2c.ack = s.i2c.ack) ∧
    (opOf i ≠ .i2cRead → t.i2c.rxTail = true → s.i2c.rxTail = true) ∧
    (s.host.mem.wf → ∀ a, (∀ b n k, opOf i = .i2cRead → s.host.op = some (.rxPhase b n k) → a ≠ b + k) →
      t.byteAt a = s.byteAt a)

/-- 10_state.md R34: an I2C operation that reports a failure sets the failure's flag; no step clears a flag; reset
clears all three; `errPending` is their disjunction. -/
def Obligations.StickyErrorFlags : Prop :=
  (∀ (f : Failure) (s : State),
    ((s.fails f).i2c.af = (s.i2c.af || decide (f = .nack))) ∧
    ((s.fails f).i2c.arlo = (s.i2c.arlo || decide (f = .arbLost))) ∧
    ((s.fails f).i2c.berr = (s.i2c.berr || decide (f = .busError))) ∧ (s.fails f).host.res = .failed) ∧
  (∀ s t : State, step s = .next t →
    (s.i2c.af = true → t.i2c.af = true) ∧ (s.i2c.arlo = true → t.i2c.arlo = true) ∧
    (s.i2c.berr = true → t.i2c.berr = true)) ∧
  (∀ (prog : List Command) (mem : Memory) (params : Params) (script : List Choice),
    errPending (State.launch prog mem params script) = false) ∧
  (∀ s : State, errPending s = true ↔ s.i2c.af = true ∨ s.i2c.arlo = true ∨ s.i2c.berr = true)

/-- A read of host memory after a write gives the byte written at its address and the old byte everywhere else, an
access outside the 2^32 bytes has no answer, and a write keeps the canonical form (20_memory.md section 1; the form is
the model's, notes/assumptions 8 and 16). -/
def Obligations.MemoryReadAfterWrite : Prop :=
  ∀ (s : State) (a : Nat) (v : Byte), s.host.mem.wf →
    (a < 2 ^ 32 → ∃ t, State.memWrite a v s = some t ∧ t.host.mem.wf ∧ t.memRead a = some v ∧
      ∀ b, t.byteAt b = if b = a then v else s.byteAt b) ∧
    (2 ^ 32 ≤ a → State.memWrite a v s = none ∧ s.memRead a = none)

/-! ### RCC clock operations (40_rcc_clock.md) -/

/-- 40_rcc_clock.md R120: SetClockState. Its word; the first step, every branch in the order of the checks; each poll;
a poll that does not see the flag is followed by another until P_CEIL polls are made. -/
def Obligations.SetClockState : Prop :=
  DecodesTo 0xFFFFFFFFFFFFFFC8 0x0100000000000000 (fun w => .clkState (w.extractLsb' 0 3) (w.extractLsb' 4 2)) ∧
  (∀ (src : BitVec 3) (state : BitVec 2) (s : State), s.host.op = none →
    (4 < src.toNat → ∃ t, exec (.clkState src state) s = .next t ∧ Ends .invalidClockType s.rcc s.i2c [] s t) ∧
    (∀ x, srcOfCode src = some x →
      (1 < state.toNat → ∃ t, exec (.clkState src state) s = .next t ∧ Ends .invalidClockState s.rcc s.i2c [] s t) ∧
      (state = 0 → inUse s x = true → exec (.clkState src state) s = .next { s with refused := some .disableInUse }) ∧
      (state = 0 → inUse s x = false → ∃ t, exec (.clkState src state) s = .next t ∧
        Ends .ok { s.rcc with on := s.rcc.on.set x false, clk := s.rcc.clk.set x .disabled } s.i2c [] s t) ∧
      (state = 1 → ∃ t, exec (.clkState src state) s = .next t ∧
        Continues (.clkPoll x 0) { s.rcc with on := s.rcc.on.set x true, clk := s.rcc.clk.set x .enabling } s.i2c []
          s t))) ∧
  (∀ (src : BitVec 3) (state : BitVec 2) (x : Src) (k : Nat) (s : State), s.host.op = some (.clkPoll x k) →
    (s.rcc.rdy.get x = true → ∃ t, exec (.clkState src state) s = .next t ∧
      Ends .ok { s.rcc with clk := s.rcc.clk.set x .ready } s.i2c [] s t) ∧
    (s.rcc.rdy.get x = false → k + 1 = s.params.ceil → ∃ t, exec (.clkState src state) s = .next t ∧
      Ends .timeout { s.rcc with clk := s.rcc.clk.set x .timedOut } s.i2c [] s t) ∧
    (s.rcc.rdy.get x = false → k + 1 < s.params.ceil → ∃ t, exec (.clkState src state) s = .next t ∧
      Continues (.clkPoll x (k + 1)) s.rcc s.i2c [] s t))

/-- 40_rcc_clock.md R124: the clock-enable state machine of a source, row by row; no autonomous step moves a phase. -/
def Obligations.ClockEnableMachine : Prop :=
  ∀ x : Src,
    (∀ (prog : List Command) (mem : Memory) (params : Params) (script : List Choice),
      (State.launch prog mem params script).rcc.clk.get x = if x = .hsi then .ready else .disabled) ∧
    (∀ (src : BitVec 3) (s : State), srcOfCode src = some x → s.host.op = none → inUse s x = false →
      ∃ t, exec (.clkState src 0) s = .next t ∧ t.rcc.clk.get x = .disabled ∧ Returned .ok s t) ∧
    (∀ (src : BitVec 3) (s : State), srcOfCode src = some x → s.host.op = none →
      ∃ t, exec (.clkState src 1) s = .next t ∧ t.rcc.clk.get x = .enabling ∧ t.host.op = some (.clkPoll x 0)) ∧
    (∀ (src : BitVec 3) (k : Nat) (s : State), s.rcc.clk.get x = .enabling → s.host.op = some (.clkPoll x k) →
      s.rcc.rdy.get x = true →
      ∃ t, exec (.clkState src 1) s = .next t ∧ t.rcc.clk.get x = .ready ∧ Returned .ok s t) ∧
    (∀ (src : BitVec 3) (k : Nat) (s : State), s.rcc.clk.get x = .enabling → s.host.op = some (.clkPoll x k) →
      s.rcc.rdy.get x = false → k + 1 = s.params.ceil →
      ∃ t, exec (.clkState src 1) s = .next t ∧ t.rcc.clk.get x = .timedOut ∧ Returned .timeout s t) ∧
    (∀ (src : BitVec 3) (k : Nat) (s : State), s.rcc.clk.get x = .enabling → s.host.op = some (.clkPoll x k) →
      s.rcc.rdy.get x = false → k + 1 < s.params.ceil →
      ∃ t, exec (.clkState src 1) s = .next t ∧ t.rcc.clk.get x = .enabling ∧ t.host.op = some (.clkPoll x (k + 1))) ∧
    (∀ (m : Move) (s : State), (envMove m s).rcc.clk.get x = s.rcc.clk.get x)

/-- SetClockState(On) makes exactly P_CEIL polls before Timeout: with any environment steps between the polls but a rise
of the source's own ready flag, after n steps of which h were the host's, the operation has made h polls if h < P_CEIL,
and has returned Timeout, the source still on, if P_CEIL ≤ h (40_rcc_clock.md, corner case "Poll count";
44_autonomous_steps.md section 3, ENV_OSC_NEVER). -/
def Obligations.TimeoutAfterExactlyCeilingPolls : Prop :=
  ∀ (src : BitVec 3) (x : Src) (s : State) (cs rest : List Choice),
    s.current = some (.clkState src 1) → s.host.status = .running → s.refused = none → s.host.hung = none →
    s.host.op = some (.clkPoll x 0) → s.rcc.on.get x = true → s.rcc.rdy.get x = false → 1 ≤ s.params.ceil →
    s.env.script = cs ++ rest → (∀ c ∈ cs, c.move ≠ some (.readyRises x)) →
    ∃ t : State, Host.Core.run Sys2Proof.core cs.length s = .next t ∧ t.rcc.on.get x = true ∧ t.rcc.rdy.get x = false ∧
      ((cs.filter (fun c => c.move.isNone)).length < s.params.ceil →
        t.host.op = some (.clkPoll x (cs.filter (fun c => c.move.isNone)).length) ∧ t.host.status = .running) ∧
      (s.params.ceil ≤ (cs.filter (fun c => c.move.isNone)).length →
        t.rcc.clk.get x = .timedOut ∧ Returned .timeout s t)

/-- SetClockState(On) returns Ok at the first poll after the ready flag rises: if it rises after h polls, h < P_CEIL,
the next poll ends the operation with the source Ready (40_rcc_clock.md, corner cases "Poll count" and "A flag that is
already set"; 44_autonomous_steps.md section 3, ENV_OSC). -/
def Obligations.ReadyEndsThePolls : Prop :=
  ∀ (src : BitVec 3) (x : Src) (s : State) (polls rest : List Choice) (d e : Draw),
    s.current = some (.clkState src 1) → s.host.status = .running → s.refused = none → s.host.hung = none →
    s.host.op = some (.clkPoll x 0) → s.rcc.on.get x = true → s.rcc.rdy.get x = false →
    (∀ c ∈ polls, c.move = none) → polls.length < s.params.ceil →
    s.env.script = polls ++ ({ move := some (.readyRises x), draw := d } :: { move := none, draw := e } :: rest) →
    ∃ t : State, Host.Core.run Sys2Proof.core (polls.length + 2) s = .next t ∧ t.rcc.clk.get x = .ready ∧
      t.rcc.on.get x = true ∧ t.rcc.rdy.get x = true ∧ Returned .ok s t ∧ t.env.script = rest

/-- 40_rcc_clock.md R121: SetPLLConfig. Its word; NullArgument; the refusal while any PLL is on or its flag still set;
the five divider fields as given, then the source; InvalidPLLSource leaves the five fields written and `src` as it was. -/
def Obligations.SetPllConfig : Prop :=
  DecodesTo 0xFFFF7FFF803C8000 0x0101000000000000 (fun w =>
    .pllCfg (w.extractLsb' 0 6) (w.extractLsb' 6 9) (w.extractLsb' 16 2) (w.extractLsb' 22 2) (w.extractLsb' 24 4)
      (w.extractLsb' 28 3) (w.getLsbD 47)) ∧
  (∀ (m : BitVec 6) (n : BitVec 9) (p psrc : BitVec 2) (q : BitVec 4) (r : BitVec 3) (s : State),
    (∃ t, exec (.pllCfg m n p psrc q r true) s = .next t ∧ Ends .nullArgument s.rcc s.i2c [] s t) ∧
    ((∃ x ∈ [Src.pll, Src.plli2s, Src.pllsai], s.rcc.on.get x = true ∨ s.rcc.rdy.get x = true) →
      exec (.pllCfg m n p psrc q r false) s = .next { s with refused := some .pllConfigWhileEnabled }) ∧
    ((∀ x ∈ [Src.pll, Src.plli2s, Src.pllsai], s.rcc.on.get x = false ∧ s.rcc.rdy.get x = false) →
      ∃ t, exec (.pllCfg m n p psrc q r false) s = .next t ∧
        Ends (if psrc.toNat ≤ 1 then .ok else .invalidPllSource)
          { s.rcc with
            pll :=
              { m := m, n := n, p := p, q := q, r := r
                src := if psrc = 0 then 0 else if psrc = 1 then 1 else s.rcc.pll.src } }
          s.i2c [] s t))

/-- 40_rcc_clock.md R122: SetSystemClock. Its word; always Ok; `sw` becomes the selection and nothing else changes, `sws`
included; the selected source is then in use. -/
def Obligations.SetSystemClock : Prop :=
  DecodesTo 0xFFFFFFFFFFFFFFFC 0x0102000000000000 (fun w => .setSysClk (Sel.ofCode (w.extractLsb' 0 2))) ∧
  (∀ (sel : Sel) (s : State), ∃ t, exec (.setSysClk sel) s = .next t ∧ Ends .ok { s.rcc with sw := sel } s.i2c [] s t ∧
    inUse t (srcOf sel) = true)

/-- 40_rcc_clock.md R123: GetSystemClock. Its word; always Ok; `host.val` becomes the code of `sws`, not of `sw`, and no
state of the block changes. -/
def Obligations.GetSystemClock : Prop :=
  DecodesTo 0xFFFFFFFFFFFFFFFF 0x0103000000000000 (fun _ => .getSysClk) ∧
  (∀ s : State, ∃ t, exec .getSysClk s = .next t ∧ Returned .ok s t ∧ t.host.val = s.rcc.sws.code ∧ t.rcc = s.rcc ∧
    t.i2c = s.i2c ∧ t.wire = s.wire ∧ (∀ a, t.byteAt a = s.byteAt a) ∧ t.refused = s.refused ∧
    t.host.hung = s.host.hung)

/-- 10_state.md R29: `srcOf`, `pllIn` and when a source is in use. -/
def Obligations.SourceInUse : Prop :=
  srcOf .hsi = .hsi ∧ srcOf .hse = .hse ∧ srcOf .pllp = .pll ∧ srcOf .pllr = .pll ∧
  (∀ s : State, (s.rcc.pll.src = 0 → pllIn s = .hsi) ∧ (s.rcc.pll.src = 1 → pllIn s = .hse)) ∧
  (∀ (s : State) (x : Src), inUse s x = true ↔
    (x = srcOf s.rcc.sw ∨ x = srcOf s.rcc.sws ∨
      (x = pllIn s ∧ ∃ p ∈ [Src.pll, Src.plli2s, Src.pllsai], s.rcc.on.get p = true ∨ s.rcc.rdy.get p = true)))

/-! ### RCC bus operations (41_rcc_bus.md) -/

/-- 41_rcc_bus.md R140, R141, R142: the three prescaler operations. Their words; a legal code is written, truncated to
the field, and nothing else; any other code gives InvalidPrescaler of the bus and leaves the field. -/
def Obligations.SetBusPrescaler : Prop :=
  DecodesTo 0xFFFFFFFFFFFFFF00 0x0104000000000000 (fun w => .ahbPre (w.extractLsb' 0 8)) ∧
  DecodesTo 0xFFFFFFFFFFFFFF00 0x0105000000000000 (fun w => .apb1Pre (w.extractLsb' 0 8)) ∧
  DecodesTo 0xFFFFFFFFFFFFFF00 0x0106000000000000 (fun w => .apb2Pre (w.extractLsb' 0 8)) ∧
  (∀ (code : Byte) (s : State),
    (code ∈ s.params.ahbPrescLegal → ∃ t, exec (.ahbPre code) s = .next t ∧
      Ends .ok { s.rcc with hpre := code.extractLsb' 0 4 } s.i2c [] s t) ∧
    (code ∉ s.params.ahbPrescLegal → ∃ t, exec (.ahbPre code) s = .next t ∧
      Ends (.invalidPrescaler .ahb) s.rcc s.i2c [] s t) ∧
    (code ∈ s.params.apb1PrescLegal → ∃ t, exec (.apb1Pre code) s = .next t ∧
      Ends .ok { s.rcc with ppre1 := code.extractLsb' 0 3 } s.i2c [] s t) ∧
    (code ∉ s.params.apb1PrescLegal → ∃ t, exec (.apb1Pre code) s = .next t ∧
      Ends (.invalidPrescaler .apb1) s.rcc s.i2c [] s t) ∧
    (code ∈ s.params.apb2PrescLegal → ∃ t, exec (.apb2Pre code) s = .next t ∧
      Ends .ok { s.rcc with ppre2 := code.extractLsb' 0 3 } s.i2c [] s t) ∧
    (code ∉ s.params.apb2PrescLegal → ∃ t, exec (.apb2Pre code) s = .next t ∧
      Ends (.invalidPrescaler .apb2) s.rcc s.i2c [] s t)) ∧
  (∀ (code : Byte) (params : Params), params.wf →
    (15 < code.toNat → code ∉ params.ahbPrescLegal) ∧
    (7 < code.toNat → code ∉ params.apb1PrescLegal ∧ code ∉ params.apb2PrescLegal))

/-- 41_rcc_bus.md R143: EnablePeripheral. Its word; the bus is checked before the bit; a legal bit of the bus's gate word
is set and nothing else changes; a bit already set stays set. -/
def Obligations.EnablePeripheral : Prop :=
  DecodesTo 0xFFFFFFFFFFFF00F8 0x0107000000000000 (fun w => .periphEn (w.extractLsb' 0 3) (w.extractLsb' 8 8).toNat) ∧
  (∀ (bus : BitVec 3) (bit : Nat) (s : State),
    (4 < bus.toNat → ∃ t, exec (.periphEn bus bit) s = .next t ∧ Ends .invalidBus s.rcc s.i2c [] s t) ∧
    (∀ b, busOfCode bus = some b →
      (legalBit s.params b bit = false → ∃ t, exec (.periphEn bus bit) s = .next t ∧
        Ends .peripheralEnableError s.rcc s.i2c [] s t) ∧
      (legalBit s.params b bit = true → ∃ t, exec (.periphEn bus bit) s = .next t ∧
        Ends .ok { s.rcc with enr := s.rcc.enr.set b (s.rcc.enr.get b ||| 1#32 <<< bit) } s.i2c [] s t ∧
        ((s.rcc.enr.get b).getLsbD bit = true → t.rcc = s.rcc))))

/-- 41_rcc_bus.md R144: DisablePeripheral. Its word; the bus before the bit; the refusal for the gate of the I2C instance
in use while its controller holds the bus; else the bit is cleared and nothing else changes. -/
def Obligations.DisablePeripheral : Prop :=
  DecodesTo 0xFFFFFFFFFFFF00F8 0x0108000000000000 (fun w => .periphDis (w.extractLsb' 0 3) (w.extractLsb' 8 8).toNat) ∧
  (∀ (bus : BitVec 3) (bit : Nat) (s : State),
    (4 < bus.toNat → ∃ t, exec (.periphDis bus bit) s = .next t ∧ Ends .invalidBus s.rcc s.i2c [] s t) ∧
    (∀ b, busOfCode bus = some b →
      (legalBit s.params b bit = false → ∃ t, exec (.periphDis bus bit) s = .next t ∧
        Ends .peripheralDisableError s.rcc s.i2c [] s t) ∧
      (legalBit s.params b bit = true → b = .apb1 → bit = 20 + instNumber s.params.i2cInst → s.i2c.role ≠ .idle →
        exec (.periphDis bus bit) s = .next { s with refused := some .gateOffWhileMaster }) ∧
      (legalBit s.params b bit = true → (b ≠ .apb1 ∨ bit ≠ 20 + instNumber s.params.i2cInst ∨ s.i2c.role = .idle) →
        ∃ t, exec (.periphDis bus bit) s = .next t ∧
        Ends .ok { s.rcc with enr := s.rcc.enr.set b (s.rcc.enr.get b &&& ~~~(1#32 <<< bit)) } s.i2c [] s t ∧
        ((s.rcc.enr.get b).getLsbD bit = false → t.rcc = s.rcc))))

/-- 41_rcc_bus.md R145: the bit numbers each bus's gate operations accept; a range is the set of the numbers between its
ends, both included. -/
def Obligations.LegalBits : Prop :=
  ∀ (p : Params) (bit : Nat),
    (legalBit p .ahb1 bit = true ↔ p.ahb1Range.lo ≤ bit ∧ bit ≤ p.ahb1Range.hi) ∧
    (legalBit p .ahb2 bit = true ↔ bit = 0 ∨ bit = 7) ∧
    (legalBit p .ahb3 bit = true ↔ bit = 0 ∨ bit = 1) ∧
    (legalBit p .apb1 bit = true ↔ p.apb1Range.lo ≤ bit ∧ bit ≤ p.apb1Range.hi) ∧
    (legalBit p .apb2 bit = true ↔ p.apb2Range.lo ≤ bit ∧ bit ≤ p.apb2Range.hi)

/-- 30_encoding.md R103: setting or clearing bit k of a gate word, k ≤ 31, changes no other bit; a legal bit number is at
most 31. -/
def Obligations.GateBitArithmetic : Prop :=
  (∀ (w : Word) (k j : Nat), k ≤ 31 →
    setBit w k = w ||| 1#32 <<< k ∧ clearBit w k = w &&& ~~~(1#32 <<< k) ∧
    (setBit w k).getLsbD j = (if j = k then true else w.getLsbD j) ∧
    (clearBit w k).getLsbD j = (if j = k then false else w.getLsbD j)) ∧
  (∀ (p : Params) (b : Bus) (k : Nat), p.wf → legalBit p b k = true → k ≤ 31)

/-! ### Delays (42_delay.md) -/

/-- 42_delay.md R160, R161: the delay operations. Their words; a count from 1 to the maximum returns Ok and changes
nothing but what the host rule writes; zero and a longer count are refused. -/
def Obligations.Delays : Prop :=
  DecodesTo 0xFFFFFFFF00000000 0x0300000000000000 (fun w => .delayMs (w.extractLsb' 0 32).toNat) ∧
  DecodesTo 0xFFFFFFFF00000000 0x0301000000000000 (fun w => .delayUs (w.extractLsb' 0 32).toNat) ∧
  (∀ (n : Nat) (s : State),
    (1 ≤ n → n ≤ s.params.delayMaxMs → ∃ t, exec (.delayMs n) s = .next t ∧ Ends .ok s.rcc s.i2c [] s t) ∧
    (n = 0 ∨ s.params.delayMaxMs < n → exec (.delayMs n) s = .next { s with refused := some .delayRange }) ∧
    (1 ≤ n → n ≤ s.params.delayMaxUs → ∃ t, exec (.delayUs n) s = .next t ∧ Ends .ok s.rcc s.i2c [] s t) ∧
    (n = 0 ∨ s.params.delayMaxUs < n → exec (.delayUs n) s = .next { s with refused := some .delayRange }))

/-! ### I2C operations (43_i2c_master.md) -/

/-- 10_state.md R36: the gate bit that clocks the I2C instance in use: 21, 22 or 23 of the APB1 gate word. -/
def Obligations.I2cClockGate : Prop :=
  ∀ s : State,
    i2cClk s = (s.rcc.enr.get .apb1).getLsbD (20 + instNumber s.params.i2cInst) ∧
    20 + instNumber s.params.i2cInst =
      match s.params.i2cInst with
      | .i2c1 => 21
      | .i2c2 => 22
      | .i2c3 => 23

/-- 43_i2c_master.md R170: the admission guard, in the first step of Start, RepeatedStart, MasterWriteData and ReadData:
first the clock, then Initialize. Stop is never refused; Initialize checks the clock only. -/
def Obligations.AdmissionGuard : Prop :=
  (∀ (i : Instr) (s : State), s.host.op = none →
    guarded (opOf i) = true →
    (i2cClk s = false → exec i s = .next { s with refused := some .i2cClockOff }) ∧
    (i2cClk s = true → s.i2c.inited = false → exec i s = .next { s with refused := some .i2cNotInitialised }) ∧
    (i2cClk s = true → s.i2c.inited = true → s.refused = none → ∃ t, exec i s = .next t ∧
      t.refused ≠ some .i2cClockOff ∧ t.refused ≠ some .i2cNotInitialised)) ∧
  (∀ s : State, ∃ t, exec .i2cStop s = .next t ∧ t.refused = s.refused) ∧
  (∀ (freq : BitVec 6) (own : BitVec 10) (am : BitVec 1) (s : State),
    (i2cClk s = false → exec (.i2cInit freq own am) s = .next { s with refused := some .i2cClockOff }) ∧
    (i2cClk s = true → s.i2c.role = .idle → ∃ t, exec (.i2cInit freq own am) s = .next t ∧ Returned .ok s t ∧
      t.refused = s.refused))

/-- 43_i2c_master.md R171: Initialize. Its word; the two refusals in order; else the configuration is written, the
peripheral enabled, and the error flags kept. -/
def Obligations.Initialize : Prop :=
  DecodesTo 0xFFFFFFFF7C00FFC0 0x0200000000000000 (fun w =>
    .i2cInit (w.extractLsb' 0 6) (w.extractLsb' 16 10) (w.extractLsb' 31 1)) ∧
  (∀ (freq : BitVec 6) (own : BitVec 10) (am : BitVec 1) (s : State),
    (i2cClk s = false → exec (.i2cInit freq own am) s = .next { s with refused := some .i2cClockOff }) ∧
    (i2cClk s = true → s.i2c.role ≠ .idle →
      exec (.i2cInit freq own am) s = .next { s with refused := some .initWhileMaster }) ∧
    (i2cClk s = true → s.i2c.role = .idle → ∃ t, exec (.i2cInit freq own am) s = .next t ∧
      Ends .ok s.rcc { s.i2c with freq := freq, addmode := am, own := own, pe := true, inited := true } [] s t))

/-- 20_memory.md R75: the address byte is twice the address plus 0 for write and 1 for read; 0x68 gives 0xD0 and 0xD1. -/
def Obligations.AddressByte : Prop :=
  (∀ a : BitVec 7, (addrByte a .w).toNat = 2 * a.toNat ∧ (addrByte a .r).toNat = 2 * a.toNat + 1) ∧
  addrByte 0x68 .w = 0xD0 ∧ addrByte 0x68 .r = 0xD1

/-- The words of SendStartCondition and SendRepeatedStart, with the address in bits 6:0 and the direction in bit 8; and
their first step past the guard: the tail mark is cleared; the error-pending draw may fail it; else a start waits for
the bus, and a repeated start, with a transaction open, goes on to its start generation (43_i2c_master.md section 2,
pseudocode of both operations; the position of a repeated start is the model's, notes/assumptions 6). -/
def Obligations.StartFirstStep : Prop :=
  DecodesTo 0xFFFFFFFFFFFFFE80 0x0201000000000000 (fun w =>
    .i2cStart (w.extractLsb' 0 7) (if w.getLsbD 8 then .r else .w)) ∧
  DecodesTo 0xFFFFFFFFFFFFFE80 0x0202000000000000 (fun w =>
    .i2cRestart (w.extractLsb' 0 7) (if w.getLsbD 8 then .r else .w)) ∧
  ∀ (a : BitVec 7) (d : Dir) (s : State), s.host.op = none → i2cClk s = true → s.i2c.inited = true →
    ((errPending s && s.draw.stale) = true →
      (∃ t, exec (.i2cStart a d) s = .next t ∧ Ends .failed s.rcc { s.i2c with rxTail := false } [] s t) ∧
      (∃ t, exec (.i2cRestart a d) s = .next t ∧ Ends .failed s.rcc { s.i2c with rxTail := false } [] s t)) ∧
    ((errPending s && s.draw.stale) = false →
      (∃ t, exec (.i2cStart a d) s = .next t ∧
        Continues (.busWait a d) s.rcc { s.i2c with rxTail := false } [] s t) ∧
      (∃ t, exec (.i2cRestart a d) s = .next t ∧
        Continues (if s.i2c.role = .idle then .busWait a d else .repStart a d) s.rcc { s.i2c with rxTail := false } []
          s t))

/-- The start-generation step of both operations: a plain start stays where it is while the bus is busy; else the draw
decides: Stall hangs with nothing else changed, a failure is reported with its event, and Ok emits the start, takes the
bus in the given direction and goes on to the address byte; a repeated start does not wait (43_i2c_master.md section 1,
the address phase; the position `repStart` is the model's, notes/assumptions 6, as is the mark of a hang, 5). -/
def Obligations.StartGeneration : Prop :=
  (∀ (i : Instr) (a : BitVec 7) (d : Dir) (s : State), i = .i2cStart a d ∨ i = .i2cRestart a d →
    s.host.op = some (.busWait a d) →
    (s.i2c.busy = true → exec i s = .next s) ∧
    (s.i2c.busy = false →
      (s.draw.start = .stall → exec i s = .next { s with host := { s.host with hung := some .stall } }) ∧
      (∀ e, s.draw.start = .fail e → ∃ t, exec i s = .next t ∧ FailsWith (failureOfErr e) s.i2c [.fail e] s t) ∧
      (s.draw.start = .ok → ∃ t, exec i s = .next t ∧
        Continues (.addrPhase false a d) s.rcc { s.i2c with role := .master d, busy := true } [.start] s t))) ∧
  (∀ (a : BitVec 7) (d : Dir) (s : State), s.host.op = some (.repStart a d) →
    (s.draw.start = .stall →
      exec (.i2cRestart a d) s = .next { s with host := { s.host with hung := some .stall } }) ∧
    (∀ e, s.draw.start = .fail e → ∃ t, exec (.i2cRestart a d) s = .next t ∧
      FailsWith (failureOfErr e) s.i2c [.fail e] s t) ∧
    (s.draw.start = .ok → ∃ t, exec (.i2cRestart a d) s = .next t ∧
      Continues (.addrPhase true a d) s.rcc { s.i2c with role := .master d, busy := true } [.repStart] s t))

/-- The address byte of both operations: acknowledged, the operation ends Ok with nothing but the event added; any other
answer is recorded and reported as its failure; Stall leaves no event (43_i2c_master.md section 1, the address phase). -/
def Obligations.AddressPhaseByte : Prop :=
  ∀ (i : Instr) (rep : Bool) (a : BitVec 7) (d : Dir) (s : State), i = .i2cStart a d ∨ i = .i2cRestart a d →
    s.host.op = some (.addrPhase rep a d) →
    (s.draw.tx = .answer .ack → ∃ t, exec i s = .next t ∧
      Ends .ok s.rcc s.i2c [.addr (addrByte a d) .ack] s t) ∧
    (∀ r f, s.draw.tx = .answer r → failureOfResp r = some f → ∃ t, exec i s = .next t ∧
      FailsWith f s.i2c [.addr (addrByte a d) r] s t) ∧
    (s.draw.tx = .stall → exec i s = .next { s with host := { s.host with hung := some .stall } })

/-- 43_i2c_master.md R179: the failure update. A NACK sets `af` and changes neither role nor busy; a lost arbitration
drops to Idle with the bus busy; a bus error sets `berr`, and a draw decides whether the bus is lost and then another
whether it is busy. -/
def Obligations.FailureUpdates : Prop :=
  ∀ s : State,
    (s.applyFail .nack).i2c = { s.i2c with af := true } ∧
    (s.applyFail .arbLost).i2c = { s.i2c with arlo := true, role := .idle, busy := true } ∧
    (s.draw.dropRole = false → (s.applyFail .busError).i2c = { s.i2c with berr := true }) ∧
    (s.draw.dropRole = true → (s.applyFail .busError).i2c =
      { s.i2c with berr := true, role := .idle, busy := s.draw.busAfter }) ∧
    (∀ f, (s.applyFail f).rcc = s.rcc ∧ (s.applyFail f).host = s.host ∧ (s.applyFail f).wire = s.wire ∧
      s.fails f = (s.applyFail f).finish .failed)

/-- The error-pending check, in the first step of the four operations once their refusal checks have passed
(43_i2c_master.md section 2). With a flag set and the draw true the operation returns Failed with no event and nothing
changed but the tail mark; with the draw false, or no flag set, it goes on: to its next step, to the wait of a transfer
with no transaction, whose mark is the model's (notes/assumptions 5), or, with nothing to transfer, to Ok; either way
the tail mark is cleared. Initialize and Stop skip the check. -/
def Obligations.ErrorPendingCheck : Prop :=
  (∀ (i : Instr) (s t : State), s.host.op = none → i2cClk s = true → s.i2c.inited = true → s.refused = none →
    guarded (opOf i) = true →
    exec i s = .next t → t.refused = none →
    t.i2c.rxTail = false ∧
    (errPending s = true → s.draw.stale = true → Ends .failed s.rcc { s.i2c with rxTail := false } [] s t) ∧
    (errPending s = false ∨ s.draw.stale = false →
      t.host.op ≠ none ∨ t.host.hung = some .noTransaction ∨ Returned .ok s t)) ∧
  (∀ (freq : BitVec 6) (own : BitVec 10) (am : BitVec 1) (s : State), i2cClk s = true → s.i2c.role = .idle →
    ∃ t, exec (.i2cInit freq own am) s = .next t ∧ Returned .ok s t) ∧
  (∀ s : State, ∃ t, exec .i2cStop s = .next t ∧ Returned .ok s t)

/-- The words of MasterWriteData and ReadData, with BUF in bits 47:16 and LEN in bits 15:0; and their first step past
the guard, in the order of the checks: a buffer past the end of host memory and a transfer against the addressed
direction are refused with nothing else changed; then the error-pending draw; a length of 0 returns Ok with no event;
with no open transaction the operation hangs; else byte 0 is next (43_i2c_master.md section 2, pseudocode of both
operations; 60_exceptions.md section 2, precedence; the mark of a hang is the model's, notes/assumptions 5). -/
def Obligations.TransferFirstStep : Prop :=
  DecodesTo 0xFFFF000000000000 0x0203000000000000 (fun w =>
    .i2cWrite (w.extractLsb' 16 32).toNat (w.extractLsb' 0 16).toNat) ∧
  DecodesTo 0xFFFF000000000000 0x0204000000000000 (fun w =>
    .i2cRead (w.extractLsb' 16 32).toNat (w.extractLsb' 0 16).toNat) ∧
  ∀ (i : Instr) (against : Dir) (p : Position) (buf len : Nat) (s : State),
    (i = .i2cWrite buf len ∧ against = .r ∧ p = .txPhase buf len 0) ∨
      (i = .i2cRead buf len ∧ against = .w ∧ p = .rxPhase buf len 0) →
    s.host.op = none → i2cClk s = true → s.i2c.inited = true →
    (2 ^ 32 < buf + len → exec i s = .next { s with refused := some .bufferRange }) ∧
    (buf + len ≤ 2 ^ 32 → s.i2c.role = .master against →
      exec i s = .next { s with refused := some .directionMismatch }) ∧
    (buf + len ≤ 2 ^ 32 → s.i2c.role ≠ .master against →
      ((errPending s && s.draw.stale) = true → ∃ t, exec i s = .next t ∧
        Ends .failed s.rcc { s.i2c with rxTail := false } [] s t) ∧
      ((errPending s && s.draw.stale) = false →
        (len = 0 → ∃ t, exec i s = .next t ∧ Ends .ok s.rcc { s.i2c with rxTail := false } [] s t) ∧
        (0 < len → s.i2c.role = .idle → exec i s =
          .next { s with i2c := { s.i2c with rxTail := false }, host := { s.host with hung := some .noTransaction } }) ∧
        (0 < len → s.i2c.role ≠ .idle → ∃ t, exec i s = .next t ∧
          Continues p s.rcc { s.i2c with rxTail := false } [] s t)))

/-- The step of byte i of MasterWriteData: the byte at BUF + i goes on the wire with its answer; acknowledged, the next
byte follows or, after the last, the operation ends Ok; any other answer is reported as its failure; Stall hangs with
nothing else changed (43_i2c_master.md section 2, pseudocode of MasterWriteData). -/
def Obligations.WriteByteStep : Prop :=
  ∀ (buf len k : Nat) (s : State), s.host.op = some (.txPhase buf len k) → k < len → buf + len ≤ 2 ^ 32 →
    (s.draw.tx = .answer .ack → k + 1 < len → ∃ t, exec (.i2cWrite buf len) s = .next t ∧
      Continues (.txPhase buf len (k + 1)) s.rcc s.i2c [.tx (s.byteAt (buf + k)) .ack] s t) ∧
    (s.draw.tx = .answer .ack → k + 1 = len → ∃ t, exec (.i2cWrite buf len) s = .next t ∧
      Ends .ok s.rcc s.i2c [.tx (s.byteAt (buf + k)) .ack] s t) ∧
    (∀ r f, s.draw.tx = .answer r → failureOfResp r = some f → ∃ t, exec (.i2cWrite buf len) s = .next t ∧
      FailsWith f s.i2c [.tx (s.byteAt (buf + k)) r] s t) ∧
    (s.draw.tx = .stall → exec (.i2cWrite buf len) s = .next { s with host := { s.host with hung := some .stall } })

/-- The step of byte i of ReadData: every byte but the last is acknowledged; the byte received is stored at BUF + i and
no other byte changes; after the last the operation ends Ok with the tail mark set to the acknowledge on the wire,
which is a NACK unless P_RX_TAIL_RACE lets the draw decide; a failure stores nothing; Stall leaves only the acknowledge
enable written (43_i2c_master.md section 2, pseudocode of ReadData; the mark of a hang is the model's,
notes/assumptions 5, and that a stalled step keeps that write is its reading, notes/assumptions 13). -/
def Obligations.ReadByteStep : Prop :=
  ∀ (buf len k : Nat) (s : State), s.host.op = some (.rxPhase buf len k) → k < len → buf + len ≤ 2 ^ 32 →
    s.host.mem.wf →
    (∀ v, s.draw.rx = .data v → k + 1 < len → ∃ t, exec (.i2cRead buf len) s = .next t ∧
      t.host.op = some (.rxPhase buf len (k + 1)) ∧ t.host.pc = s.host.pc ∧ t.host.status = s.host.status ∧
      t.host.res = s.host.res ∧ t.rcc = s.rcc ∧ t.i2c = { s.i2c with ack := true } ∧
      t.wire = s.wire ++ [.rx v true] ∧ Stored (buf + k) v s t) ∧
    (∀ v, s.draw.rx = .data v → k + 1 = len → ∃ t, exec (.i2cRead buf len) s = .next t ∧ Returned .ok s t ∧
      t.rcc = s.rcc ∧ t.i2c = { s.i2c with ack := false, rxTail := s.params.rxTailRace && s.draw.lastAck } ∧
      t.wire = s.wire ++ [.rx v (s.params.rxTailRace && s.draw.lastAck)] ∧ Stored (buf + k) v s t) ∧
    (∀ e, s.draw.rx = .fail e → ∃ t, exec (.i2cRead buf len) s = .next t ∧
      FailsWith (failureOfErr e) { s.i2c with ack := decide (k + 1 < len) } [.fail e] s t) ∧
    (s.draw.rx = .stall → exec (.i2cRead buf len) s =
      .next { s with i2c := { s.i2c with ack := decide (k + 1 < len) }, host := { s.host with hung := some .stall } })

/-- 43_i2c_master.md R177: SendStopCondition. Its word; always Ok, never refused; with the clock off, before Initialize
or with the role Idle it has no effect; else the extra byte, if the tail mark is set, goes on the wire NACKed and is not
stored, then Stop, and the bus is released; the error flags stay. -/
def Obligations.SendStop : Prop :=
  DecodesTo 0xFFFFFFFFFFFFFFFF 0x0205000000000000 (fun _ => .i2cStop) ∧
  (∀ s : State,
    (i2cClk s = false ∨ s.i2c.inited = false ∨ s.i2c.role = .idle → ∃ t, exec .i2cStop s = .next t ∧
      Ends .ok s.rcc s.i2c [] s t) ∧
    (i2cClk s = true → s.i2c.inited = true → s.i2c.role ≠ .idle → ∃ t, exec .i2cStop s = .next t ∧
      Ends .ok s.rcc { s.i2c with role := .idle, busy := false, rxTail := false, ack := false }
        ((if s.i2c.rxTail then [.rx s.draw.extra false] else []) ++ [.stop]) s t))

/-- 10_state.md R31: the three values Initialize writes as configuration change nothing that a master operation, or any
other operation, does: with any other values in their place the step is the same, but for those values. -/
def Obligations.ConfigurationHasNoEffect : Prop :=
  (∀ (freq : BitVec 6) (own : BitVec 10) (am : BitVec 1) (s t : State), exec (.i2cInit freq own am) s = .next t →
    t.refused = none → s.refused = none → t.i2c.freq = freq ∧ t.i2c.addmode = am ∧ t.i2c.own = own) ∧
  (∀ (i : Instr) (freq : BitVec 6) (own : BitVec 10) (am : BitVec 1) (s : State),
    opOf i ≠ .i2cInit →
    exec i { s with i2c := { s.i2c with freq := freq, addmode := am, own := own } } =
      mapNext (fun t => { t with i2c := { t.i2c with freq := freq, addmode := am, own := own } }) (exec i s))

/-- A SendStartCondition while this controller already holds the bus waits for ever: whatever steps follow, the host
stays at the wait and the bus stays busy (43_i2c_master.md section 2, corner case "Bus already held by this controller";
60_exceptions.md section 2, hangs). -/
def Obligations.StartWhileHoldingBusNeverEnds : Prop :=
  ∀ (a : BitVec 7) (d : Dir) (s : State), s.current = some (.i2cStart a d) → s.host.op = some (.busWait a d) →
    s.i2c.role ≠ .idle → s.i2c.busy = true →
    ∀ n : Nat, ∃ t : State, Host.Core.run Sys2Proof.core n s = .next t ∧ t.host = s.host ∧ t.i2c = s.i2c ∧
      t.wire = s.wire

/-- A whole SendStartCondition on a free bus with an acknowledging slave, and a whole SendRepeatedStart in an open
transaction: three host steps, the start event and the address byte on the wire, the role in the direction addressed, Ok
(43_i2c_master.md sections 1 and 2, with their examples). -/
def Obligations.StartRunOpensTransaction : Prop :=
  ∀ (a : BitVec 7) (d : Dir) (s : State) (x y z : Draw) (rest : List Choice),
    s.host.status = .running → s.refused = none → s.host.hung = none → s.host.op = none → i2cClk s = true →
    s.i2c.inited = true → (errPending s = false ∨ x.stale = false) → y.start = .ok → z.tx = .answer .ack →
    s.env.script =
      { move := none, draw := x } :: { move := none, draw := y } :: { move := none, draw := z } :: rest →
    (s.current = some (.i2cStart a d) ∨ s.current = some (.i2cRestart a d) → s.i2c.role = .idle → s.i2c.busy = false →
      ∃ t : State, Host.Core.run Sys2Proof.core 3 s = .next t ∧ Returned .ok s t ∧ t.rcc = s.rcc ∧
        t.i2c = { s.i2c with rxTail := false, role := .master d, busy := true } ∧
        t.wire = s.wire ++ [.start, .addr (addrByte a d) .ack] ∧ t.env.script = rest) ∧
    (s.current = some (.i2cRestart a d) → s.i2c.role ≠ .idle →
      ∃ t : State, Host.Core.run Sys2Proof.core 3 s = .next t ∧ Returned .ok s t ∧ t.rcc = s.rcc ∧
        t.i2c = { s.i2c with rxTail := false, role := .master d, busy := true } ∧
        t.wire = s.wire ++ [.repStart, .addr (addrByte a d) .ack] ∧ t.env.script = rest)

/-- A whole MasterWriteData of at least one byte in a write transaction, every byte acknowledged, with any steps of the
other agents left out: LEN + 1 host steps, exactly LEN `Tx(_, Ack)` events with the buffer's bytes in buffer order, Ok,
host memory only read, and nothing else changed but the tail mark and what the host rule writes (43_i2c_master.md
section 4, the last paragraph on the wire trace, which the spec marks derived; 20_memory.md section 2, byte order of
payloads). -/
def Obligations.WriteRunSendsBufferInOrder : Prop :=
  ∀ (buf len : Nat) (s : State) (first : Draw) (draws : List Draw) (rest : List Choice),
    s.current = some (.i2cWrite buf len) → s.host.status = .running → s.refused = none → s.host.hung = none →
    s.host.op = none → i2cClk s = true → s.i2c.inited = true → s.i2c.role = .master .w → 0 < len →
    buf + len ≤ 2 ^ 32 → (errPending s = false ∨ first.stale = false) → draws.length = len →
    (∀ d ∈ draws, d.tx = .answer .ack) →
    s.env.script = { move := none, draw := first } :: (draws.map (fun d => { move := none, draw := d }) ++ rest) →
    ∃ t : State, Host.Core.run Sys2Proof.core (len + 1) s = .next t ∧ Returned .ok s t ∧ t.rcc = s.rcc ∧
      t.i2c = { s.i2c with rxTail := false } ∧
      t.wire = s.wire ++ (List.range len).map (fun k => .tx (s.byteAt (buf + k)) .ack) ∧
      (∀ a, t.byteAt a = s.byteAt a) ∧ t.host.val = s.host.val ∧ t.host.hung = s.host.hung ∧
      t.refused = s.refused ∧ t.prog = s.prog ∧ t.params = s.params ∧ t.env.script = rest

/-- A MasterWriteData that fails at byte j leaves bytes 0 to j sent, the ones before j acknowledged, and the host Halted
with Failed; nothing is retried and nothing undone (43_i2c_master.md section 2, corner case "Failure mid-buffer";
60_exceptions.md section 2, no rollback). -/
def Obligations.WriteRunStopsAtFirstNack : Prop :=
  ∀ (buf len : Nat) (s : State) (acked : List Draw) (nacked : Draw) (rest : List Choice),
    s.current = some (.i2cWrite buf len) → s.host.status = .running → s.refused = none → s.host.hung = none →
    s.host.op = some (.txPhase buf len 0) → acked.length < len → buf + len ≤ 2 ^ 32 →
    (∀ d ∈ acked, d.tx = .answer .ack) → nacked.tx = .answer .nack →
    s.env.script = acked.map (fun d => { move := none, draw := d }) ++ { move := none, draw := nacked } :: rest →
    ∃ t : State, Host.Core.run Sys2Proof.core (acked.length + 1) s = .next t ∧ Returned .failed s t ∧
      t.rcc = s.rcc ∧ t.i2c = { s.i2c with af := true } ∧
      t.wire = s.wire ++ ((List.range acked.length).map (fun k => .tx (s.byteAt (buf + k)) .ack) ++
        [.tx (s.byteAt (buf + acked.length)) .nack]) ∧
      (∀ a, t.byteAt a = s.byteAt a)

/-- A whole ReadData of at least one byte in a read transaction with P_RX_TAIL_RACE false, the slave giving the bytes
`vs`: LEN + 1 host steps, exactly LEN Rx events, the last NACKed and the others acknowledged, byte i stored at BUF + i and
no other byte changed, Ok (43_i2c_master.md section 2, corner case "Acknowledge pattern", and section 4, the last
paragraph on the wire trace, which the spec marks derived). -/
def Obligations.ReadRunFillsBufferInOrder : Prop :=
  ∀ (buf len : Nat) (s : State) (first : Draw) (draws : List Draw) (vs : List Byte) (rest : List Choice),
    s.current = some (.i2cRead buf len) → s.host.status = .running → s.refused = none → s.host.hung = none →
    s.host.op = none → i2cClk s = true → s.i2c.inited = true → s.i2c.role = .master .r → 0 < len →
    buf + len ≤ 2 ^ 32 → s.host.mem.wf → s.params.rxTailRace = false →
    (errPending s = false ∨ first.stale = false) → vs.length = len → draws.map (fun d => d.rx) = vs.map .data →
    s.env.script = { move := none, draw := first } :: (draws.map (fun d => { move := none, draw := d }) ++ rest) →
    ∃ t : State, Host.Core.run Sys2Proof.core (len + 1) s = .next t ∧ Returned .ok s t ∧ t.rcc = s.rcc ∧
      t.i2c = { s.i2c with rxTail := false, ack := false } ∧
      t.wire = s.wire ++ vs.mapIdx (fun k v => .rx v (decide (k + 1 < len))) ∧
      (∀ k v, vs[k]? = some v → t.byteAt (buf + k) = v) ∧
      (∀ a, a < buf ∨ buf + len ≤ a → t.byteAt a = s.byteAt a)

/-! ### Invariants -/

/-- The invariants hold at reset, for every program, canonical launch memory and admitted parameters, and at
`State.reset` (the invariants of 40_rcc_clock.md, 41_rcc_bus.md and 43_i2c_master.md section 4, which the spec
marks derived; the canonical form of memory is the model's, notes/assumptions 8). -/
def Obligations.InvariantAtReset : Prop :=
  (∀ (prog : List Command) (mem : Memory) (params : Params) (script : List Choice), mem.wf → params.wf →
    (State.launch prog mem params script).Inv) ∧
  State.reset.Inv

/-- Every step from a state with the invariants answers a next state, never a fault, and keeps them: the clock phases
and the system clock's source, the prescalers and the gate bits no operation may write, role, busy, clock and tail of
the I2C controller, the acknowledge enable clear outside a ReadData, the coherence of the host's position, and the
canonical form of memory (40_rcc_clock.md, invariants of the RCC half; 41_rcc_bus.md, invariants of the bus half;
43_i2c_master.md section 4, invariants of the I2C half; all marked derived by the spec). -/
def Obligations.StepKeepsInvariant : Prop := ∀ s : State, s.Inv → ∃ t : State, step s = .next t ∧ t.Inv

/-- The wire trace has the shape of 43_i2c_master.md section 4 at reset, and every step from a state with the invariants
and the shape keeps the shape (the spec marks the shape derived). -/
def Obligations.StepKeepsWireShape : Prop :=
  (∀ (prog : List Command) (mem : Memory) (params : Params) (script : List Choice),
    WireInv (State.launch prog mem params script)) ∧
  (∀ s t : State, s.Inv → WireInv s → step s = .next t → WireInv t)
end

