-- ==== Sys2Proof/Laws/Memory.lean ====
section
/-! SUPPORT. Host buffer memory (20_memory.md R71): a read after a write, and that a write keeps the canonical form. -/

namespace Sys2Proof.Machine

@[simp] theorem Memory.byte_nil (a : Nat) : Memory.byte [] a = Memory.unlisted := rfl

@[simp] theorem Memory.byte_cons (b : Nat) (v : Byte) (m : Memory) (a : Nat) :
    Memory.byte ((b, v) :: m) a = if a = b then v else Memory.byte m a := rfl

/-- Below its first entry a canonical memory reads as unlisted. -/
theorem Memory.byte_below (m : Memory) (a : Nat) (h : ∀ c ∈ m, a < c.1) : Memory.byte m a = Memory.unlisted := by
  induction m with
  | nil => rfl
  | cons c m ih =>
    obtain ⟨b, v⟩ := c
    have hb : a < b := h (b, v) (by simp)
    rw [Memory.byte_cons, if_neg (by omega)]
    exact ih (fun c hc => h c (by simp [hc]))

/-- A read after a write, in a memory whose addresses rise. -/
theorem Memory.byte_put (m : Memory) (a x : Nat) (v : Byte) (h : m.Pairwise (fun c d => c.1 < d.1)) :
    Memory.byte (m.put a v) x = if x = a then v else Memory.byte m x := by
  induction m with
  | nil =>
    unfold Memory.put
    by_cases hv : v = Memory.unlisted <;> simp [hv]
  | cons c m ih =>
    obtain ⟨b, w⟩ := c
    obtain ⟨hlt, hrest⟩ := List.pairwise_cons.mp h
    have hbelow : ∀ y, y ≤ b → Memory.byte m y = Memory.unlisted := fun y hy =>
      Memory.byte_below m y (fun c hc => by have := hlt c hc; simp at this; omega)
    unfold Memory.put
    by_cases h1 : a < b
    · by_cases hv : v = Memory.unlisted
      · simp only [h1, hv, if_true]
        by_cases hx : x = a
        · subst hx
          simp [show x ≠ b by omega, hbelow x (by omega)]
        · simp [hx]
      · simp [h1, hv]
    · by_cases h2 : a = b
      · subst h2
        by_cases hv : v = Memory.unlisted
        · by_cases hx : x = a
          · subst hx; simp [hv, hbelow x (Nat.le_refl x)]
          · simp [hv, hx]
        · by_cases hx : x = a <;> simp [hv, hx]
      · simp only [h1, h2, if_false, Memory.byte_cons, ih hrest]
        by_cases hx : x = b
        · simp [hx, show b ≠ a by omega]
        · simp [hx]

/-- Every entry after a write is one from before or the written one. -/
theorem Memory.mem_put (m : Memory) (a : Nat) (v : Byte) (c : Host.Cell) (h : c ∈ m.put a v) :
    c ∈ m ∨ (c = (a, v) ∧ v ≠ Memory.unlisted) := by
  induction m with
  | nil =>
    unfold Memory.put at h
    by_cases hv : v = Memory.unlisted <;> simp_all
  | cons d m ih =>
    obtain ⟨b, w⟩ := d
    unfold Memory.put at h
    split at h
    · split at h
      · exact .inl h
      · rcases List.mem_cons.mp h with h | h
        · exact .inr ⟨h, by assumption⟩
        · exact .inl h
    · split at h
      · split at h
        · exact .inl (List.mem_cons_of_mem _ h)
        · rcases List.mem_cons.mp h with h | h
          · exact .inr ⟨h, by assumption⟩
          · exact .inl (List.mem_cons_of_mem _ h)
      · rcases List.mem_cons.mp h with h | h
        · exact .inl (by simp [h])
        · rcases ih h with h | h
          · exact .inl (List.mem_cons_of_mem _ h)
          · exact .inr h

/-- A write keeps the canonical form (20_memory.md R71). -/
theorem Memory.put_wf (m : Memory) (a : Nat) (v : Byte) (h : m.wf) (ha : a < Memory.size) : (m.put a v).wf := by
  refine ⟨?_, fun c hc => ?_⟩
  · have hp := h.1
    clear h
    induction m with
    | nil =>
      unfold Memory.put
      by_cases hv : v = Memory.unlisted <;> simp [hv]
    | cons d m ih =>
      obtain ⟨b, w⟩ := d
      obtain ⟨hlt, hrest⟩ := List.pairwise_cons.mp hp
      unfold Memory.put
      split
      · rename_i hab
        split
        · exact hp
        · refine List.pairwise_cons.mpr ⟨fun c hc => ?_, hp⟩
          rcases List.mem_cons.mp hc with rfl | hc
          · exact hab
          · exact Nat.lt_trans hab (hlt c hc)
      · split
        · rename_i _ hab
          split
          · exact hrest
          · exact List.pairwise_cons.mpr ⟨fun c hc => by subst hab; exact hlt c hc, hrest⟩
        · rename_i h1 h2
          refine List.pairwise_cons.mpr ⟨fun c hc => ?_, ih hrest⟩
          rcases Memory.mem_put m a v c hc with hc | ⟨rfl, _⟩
          · exact hlt c hc
          · show b < a
            omega
  · rcases Memory.mem_put m a v c hc with hc | ⟨rfl, hv⟩
    · exact h.2 c hc
    · exact ⟨ha, hv⟩

/-- A launch's contents are in canonical form. -/
theorem Memory.load_wf (m : Memory) (a : Nat) (vs : List Byte) (h : m.wf) (ha : a + vs.length ≤ Memory.size) :
    (Memory.load m a vs).wf := by
  induction vs generalizing m a with
  | nil => exact h
  | cons v vs ih =>
    rw [List.length_cons] at ha
    exact ih (m.put a v) (a + 1) (Memory.put_wf m a v h (by omega)) (by omega)

/-- Two canonical memories that read the same are equal. -/
theorem Memory.eq_of_byte (m n : Memory) (hm : m.wf) (hn : n.wf) (h : ∀ a, m.byte a = n.byte a) : m = n := by
  induction m generalizing n with
  | nil =>
    cases n with
    | nil => rfl
    | cons d n =>
      obtain ⟨b, w⟩ := d
      have := h b
      simp only [Memory.byte_nil, Memory.byte_cons, if_true] at this
      exact absurd this.symm (hn.2 (b, w) (by simp)).2
  | cons c m ih =>
    obtain ⟨a, v⟩ := c
    have hv := (hm.2 (a, v) (by simp)).2
    obtain ⟨hlt, hrest⟩ := List.pairwise_cons.mp hm.1
    have hbm : ∀ y, y ≤ a → Memory.byte m y = Memory.unlisted := fun y hy =>
      Memory.byte_below m y (fun c hc => by have := hlt c hc; simp at this; omega)
    cases n with
    | nil =>
      have := h a
      simp only [Memory.byte_nil, Memory.byte_cons, if_true] at this
      exact absurd this hv
    | cons d n =>
      obtain ⟨b, w⟩ := d
      have hw := (hn.2 (b, w) (by simp)).2
      obtain ⟨hlt', hrest'⟩ := List.pairwise_cons.mp hn.1
      have hbn : ∀ y, y ≤ b → Memory.byte n y = Memory.unlisted := fun y hy =>
        Memory.byte_below n y (fun c hc => by have := hlt' c hc; simp at this; omega)
      have hab : a = b := by
        rcases Nat.lt_trichotomy a b with hl | he | hl
        · have := h a
          simp only [Memory.byte_cons, if_true, show a ≠ b by omega, if_false, hbn a (by omega)] at this
          exact absurd this hv
        · exact he
        · have := h b
          simp only [Memory.byte_cons, if_true, show b ≠ a by omega, if_false, hbm b (by omega)] at this
          exact absurd this.symm hw
      subst hab
      have hvw : v = w := by simpa using h a
      subst hvw
      refine congrArg _ (ih n ⟨hrest, fun c hc => hm.2 c (by simp [hc])⟩ ⟨hrest', fun c hc => hn.2 c (by simp [hc])⟩ ?_)
      intro y
      by_cases hy : y = a
      · subst hy; rw [hbm y (Nat.le_refl y), hbn y (Nat.le_refl y)]
      · simpa [hy] using h y

/-- The memory write, where it answers. -/
theorem State.memWrite_some (s : State) (a : Nat) (v : Byte) (h : a < Memory.size) :
    s.memWrite a v = some { s with host := { s.host with mem := s.host.mem.put a v } } := if_pos h

/-- The memory read, where it answers. -/
theorem State.memRead_some (s : State) (a : Nat) (h : a < Memory.size) : s.memRead a = some (s.byteAt a) := if_pos h

end Sys2Proof.Machine
end

