-- ==== Sys2Proof/Laws/State.lean ====
section
/-! SUPPORT. One lemma for each field a named update leaves or writes, so that no proof unfolds a record update. -/

namespace Sys2Proof.Machine

/-! ### Per-source and per-bus fields -/

@[simp] theorem PerSrc.get_set_same {α : Type} (f : PerSrc α) (x : Src) (v : α) : (f.set x v).get x = v := by
  cases x <;> rfl

theorem PerSrc.get_set_other {α : Type} (f : PerSrc α) (x y : Src) (v : α) (h : y ≠ x) :
    (f.set x v).get y = f.get y := by
  cases x <;> cases y <;> first | rfl | exact absurd rfl h

theorem PerSrc.get_set {α : Type} (f : PerSrc α) (x y : Src) (v : α) :
    (f.set x v).get y = if y = x then v else f.get y := by
  cases x <;> cases y <;> rfl

@[simp] theorem PerBus.get_set_same {α : Type} (f : PerBus α) (b : Bus) (v : α) : (f.set b v).get b = v := by
  cases b <;> rfl

theorem PerBus.get_set {α : Type} (f : PerBus α) (b c : Bus) (v : α) :
    (f.set b v).get c = if c = b then v else f.get c := by
  cases b <;> cases c <;> rfl

theorem PerSrc.ext_get {α : Type} {f g : PerSrc α} (h : ∀ x, f.get x = g.get x) : f = g := by
  have h1 := h .hsi
  have h2 := h .hse
  have h3 := h .pll
  have h4 := h .plli2s
  have h5 := h .pllsai
  cases f; cases g
  simp_all [PerSrc.get]

/-! ### `finish` (60_exceptions.md R232) -/

variable (s : State)

@[simp] theorem State.finish_rcc (r : Result) : (s.finish r).rcc = s.rcc := rfl
@[simp] theorem State.finish_i2c (r : Result) : (s.finish r).i2c = s.i2c := rfl
@[simp] theorem State.finish_wire (r : Result) : (s.finish r).wire = s.wire := rfl
@[simp] theorem State.finish_refused (r : Result) : (s.finish r).refused = s.refused := rfl
@[simp] theorem State.finish_prog (r : Result) : (s.finish r).prog = s.prog := rfl
@[simp] theorem State.finish_params (r : Result) : (s.finish r).params = s.params := rfl
@[simp] theorem State.finish_env (r : Result) : (s.finish r).env = s.env := rfl
@[simp] theorem State.finish_res (r : Result) : (s.finish r).host.res = r := rfl
@[simp] theorem State.finish_op (r : Result) : (s.finish r).host.op = none := rfl
@[simp] theorem State.finish_val (r : Result) : (s.finish r).host.val = s.host.val := rfl
@[simp] theorem State.finish_mem (r : Result) : (s.finish r).host.mem = s.host.mem := rfl
@[simp] theorem State.finish_hung (r : Result) : (s.finish r).host.hung = s.host.hung := rfl
@[simp] theorem State.finish_ok_pc : (s.finish .ok).host.pc = s.host.pc + 1 := rfl
@[simp] theorem State.finish_ok_status :
    (s.finish .ok).host.status = if s.host.pc + 1 = s.prog.length then .done else s.host.status := rfl
theorem State.finish_bad_pc (r : Result) (h : r ≠ .ok) : (s.finish r).host.pc = s.host.pc := by
  simp [State.finish, h]
theorem State.finish_bad_status (r : Result) (h : r ≠ .ok) : (s.finish r).host.status = .halted r := by
  simp [State.finish, h]

/-! ### `raise`, `hang`, `goOn`, `emit` -/

@[simp] theorem State.raise_rcc (x : RefusedReason) : (s.raise x).rcc = s.rcc := rfl
@[simp] theorem State.raise_i2c (x : RefusedReason) : (s.raise x).i2c = s.i2c := rfl
@[simp] theorem State.raise_host (x : RefusedReason) : (s.raise x).host = s.host := rfl
@[simp] theorem State.raise_wire (x : RefusedReason) : (s.raise x).wire = s.wire := rfl
@[simp] theorem State.raise_refused (x : RefusedReason) : (s.raise x).refused = some x := rfl
@[simp] theorem State.raise_prog (x : RefusedReason) : (s.raise x).prog = s.prog := rfl
@[simp] theorem State.raise_params (x : RefusedReason) : (s.raise x).params = s.params := rfl
@[simp] theorem State.raise_env (x : RefusedReason) : (s.raise x).env = s.env := rfl

@[simp] theorem State.hang_rcc (x : HangReason) : (s.hang x).rcc = s.rcc := rfl
@[simp] theorem State.hang_i2c (x : HangReason) : (s.hang x).i2c = s.i2c := rfl
@[simp] theorem State.hang_wire (x : HangReason) : (s.hang x).wire = s.wire := rfl
@[simp] theorem State.hang_refused (x : HangReason) : (s.hang x).refused = s.refused := rfl
@[simp] theorem State.hang_prog (x : HangReason) : (s.hang x).prog = s.prog := rfl
@[simp] theorem State.hang_params (x : HangReason) : (s.hang x).params = s.params := rfl
@[simp] theorem State.hang_env (x : HangReason) : (s.hang x).env = s.env := rfl
@[simp] theorem State.hang_pc (x : HangReason) : (s.hang x).host.pc = s.host.pc := rfl
@[simp] theorem State.hang_status (x : HangReason) : (s.hang x).host.status = s.host.status := rfl
@[simp] theorem State.hang_res (x : HangReason) : (s.hang x).host.res = s.host.res := rfl
@[simp] theorem State.hang_val (x : HangReason) : (s.hang x).host.val = s.host.val := rfl
@[simp] theorem State.hang_mem (x : HangReason) : (s.hang x).host.mem = s.host.mem := rfl
@[simp] theorem State.hang_op (x : HangReason) : (s.hang x).host.op = s.host.op := rfl
@[simp] theorem State.hang_hung (x : HangReason) : (s.hang x).host.hung = some x := rfl

@[simp] theorem State.goOn_rcc (p : Position) : (s.goOn p).rcc = s.rcc := rfl
@[simp] theorem State.goOn_i2c (p : Position) : (s.goOn p).i2c = s.i2c := rfl
@[simp] theorem State.goOn_wire (p : Position) : (s.goOn p).wire = s.wire := rfl
@[simp] theorem State.goOn_refused (p : Position) : (s.goOn p).refused = s.refused := rfl
@[simp] theorem State.goOn_prog (p : Position) : (s.goOn p).prog = s.prog := rfl
@[simp] theorem State.goOn_params (p : Position) : (s.goOn p).params = s.params := rfl
@[simp] theorem State.goOn_env (p : Position) : (s.goOn p).env = s.env := rfl
@[simp] theorem State.goOn_pc (p : Position) : (s.goOn p).host.pc = s.host.pc := rfl
@[simp] theorem State.goOn_status (p : Position) : (s.goOn p).host.status = s.host.status := rfl
@[simp] theorem State.goOn_res (p : Position) : (s.goOn p).host.res = s.host.res := rfl
@[simp] theorem State.goOn_val (p : Position) : (s.goOn p).host.val = s.host.val := rfl
@[simp] theorem State.goOn_mem (p : Position) : (s.goOn p).host.mem = s.host.mem := rfl
@[simp] theorem State.goOn_op (p : Position) : (s.goOn p).host.op = some p := rfl
@[simp] theorem State.goOn_hung (p : Position) : (s.goOn p).host.hung = s.host.hung := rfl

@[simp] theorem State.emit_rcc (e : WireEvent) : (s.emit e).rcc = s.rcc := rfl
@[simp] theorem State.emit_i2c (e : WireEvent) : (s.emit e).i2c = s.i2c := rfl
@[simp] theorem State.emit_host (e : WireEvent) : (s.emit e).host = s.host := rfl
@[simp] theorem State.emit_wire (e : WireEvent) : (s.emit e).wire = s.wire ++ [e] := rfl
@[simp] theorem State.emit_refused (e : WireEvent) : (s.emit e).refused = s.refused := rfl
@[simp] theorem State.emit_prog (e : WireEvent) : (s.emit e).prog = s.prog := rfl
@[simp] theorem State.emit_params (e : WireEvent) : (s.emit e).params = s.params := rfl
@[simp] theorem State.emit_env (e : WireEvent) : (s.emit e).env = s.env := rfl

/-! ### `advance` -/

@[simp] theorem State.advance_rcc : s.advance.rcc = s.rcc := rfl
@[simp] theorem State.advance_i2c : s.advance.i2c = s.i2c := rfl
@[simp] theorem State.advance_host : s.advance.host = s.host := rfl
@[simp] theorem State.advance_wire : s.advance.wire = s.wire := rfl
@[simp] theorem State.advance_refused : s.advance.refused = s.refused := rfl
@[simp] theorem State.advance_prog : s.advance.prog = s.prog := rfl
@[simp] theorem State.advance_params : s.advance.params = s.params := rfl
@[simp] theorem State.advance_script : s.advance.env.script = s.env.script.tail := rfl
@[simp] theorem State.advance_turn : s.advance.env.turn = s.env.turn + 1 := rfl

/-! ### The RCC updates: the other parts of the state -/

@[simp] theorem State.setOn_on (x : Src) (v : Bool) : (s.setOn x v).rcc.on = s.rcc.on.set x v := rfl
@[simp] theorem State.setOn_rdy (x : Src) (v : Bool) : (s.setOn x v).rcc.rdy = s.rcc.rdy := rfl
@[simp] theorem State.setOn_clk (x : Src) (v : Bool) : (s.setOn x v).rcc.clk = s.rcc.clk := rfl
@[simp] theorem State.setOn_pll (x : Src) (v : Bool) : (s.setOn x v).rcc.pll = s.rcc.pll := rfl
@[simp] theorem State.setOn_sw (x : Src) (v : Bool) : (s.setOn x v).rcc.sw = s.rcc.sw := rfl
@[simp] theorem State.setOn_sws (x : Src) (v : Bool) : (s.setOn x v).rcc.sws = s.rcc.sws := rfl
@[simp] theorem State.setOn_hpre (x : Src) (v : Bool) : (s.setOn x v).rcc.hpre = s.rcc.hpre := rfl
@[simp] theorem State.setOn_ppre1 (x : Src) (v : Bool) : (s.setOn x v).rcc.ppre1 = s.rcc.ppre1 := rfl
@[simp] theorem State.setOn_ppre2 (x : Src) (v : Bool) : (s.setOn x v).rcc.ppre2 = s.rcc.ppre2 := rfl
@[simp] theorem State.setOn_enr (x : Src) (v : Bool) : (s.setOn x v).rcc.enr = s.rcc.enr := rfl
@[simp] theorem State.setOn_i2c (x : Src) (v : Bool) : (s.setOn x v).i2c = s.i2c := rfl
@[simp] theorem State.setOn_host (x : Src) (v : Bool) : (s.setOn x v).host = s.host := rfl
@[simp] theorem State.setOn_wire (x : Src) (v : Bool) : (s.setOn x v).wire = s.wire := rfl
@[simp] theorem State.setOn_refused (x : Src) (v : Bool) : (s.setOn x v).refused = s.refused := rfl
@[simp] theorem State.setOn_prog (x : Src) (v : Bool) : (s.setOn x v).prog = s.prog := rfl
@[simp] theorem State.setOn_params (x : Src) (v : Bool) : (s.setOn x v).params = s.params := rfl
@[simp] theorem State.setOn_env (x : Src) (v : Bool) : (s.setOn x v).env = s.env := rfl

@[simp] theorem State.setRdy_rdy (x : Src) (v : Bool) : (s.setRdy x v).rcc.rdy = s.rcc.rdy.set x v := rfl
@[simp] theorem State.setRdy_on (x : Src) (v : Bool) : (s.setRdy x v).rcc.on = s.rcc.on := rfl
@[simp] theorem State.setRdy_clk (x : Src) (v : Bool) : (s.setRdy x v).rcc.clk = s.rcc.clk := rfl
@[simp] theorem State.setRdy_pll (x : Src) (v : Bool) : (s.setRdy x v).rcc.pll = s.rcc.pll := rfl
@[simp] theorem State.setRdy_sw (x : Src) (v : Bool) : (s.setRdy x v).rcc.sw = s.rcc.sw := rfl
@[simp] theorem State.setRdy_sws (x : Src) (v : Bool) : (s.setRdy x v).rcc.sws = s.rcc.sws := rfl
@[simp] theorem State.setRdy_hpre (x : Src) (v : Bool) : (s.setRdy x v).rcc.hpre = s.rcc.hpre := rfl
@[simp] theorem State.setRdy_ppre1 (x : Src) (v : Bool) : (s.setRdy x v).rcc.ppre1 = s.rcc.ppre1 := rfl
@[simp] theorem State.setRdy_ppre2 (x : Src) (v : Bool) : (s.setRdy x v).rcc.ppre2 = s.rcc.ppre2 := rfl
@[simp] theorem State.setRdy_enr (x : Src) (v : Bool) : (s.setRdy x v).rcc.enr = s.rcc.enr := rfl
@[simp] theorem State.setRdy_i2c (x : Src) (v : Bool) : (s.setRdy x v).i2c = s.i2c := rfl
@[simp] theorem State.setRdy_host (x : Src) (v : Bool) : (s.setRdy x v).host = s.host := rfl
@[simp] theorem State.setRdy_wire (x : Src) (v : Bool) : (s.setRdy x v).wire = s.wire := rfl
@[simp] theorem State.setRdy_refused (x : Src) (v : Bool) : (s.setRdy x v).refused = s.refused := rfl
@[simp] theorem State.setRdy_prog (x : Src) (v : Bool) : (s.setRdy x v).prog = s.prog := rfl
@[simp] theorem State.setRdy_params (x : Src) (v : Bool) : (s.setRdy x v).params = s.params := rfl
@[simp] theorem State.setRdy_env (x : Src) (v : Bool) : (s.setRdy x v).env = s.env := rfl

@[simp] theorem State.setClk_clk (x : Src) (v : ClkPhase) : (s.setClk x v).rcc.clk = s.rcc.clk.set x v := rfl
@[simp] theorem State.setClk_on (x : Src) (v : ClkPhase) : (s.setClk x v).rcc.on = s.rcc.on := rfl
@[simp] theorem State.setClk_rdy (x : Src) (v : ClkPhase) : (s.setClk x v).rcc.rdy = s.rcc.rdy := rfl
@[simp] theorem State.setClk_pll (x : Src) (v : ClkPhase) : (s.setClk x v).rcc.pll = s.rcc.pll := rfl
@[simp] theorem State.setClk_sw (x : Src) (v : ClkPhase) : (s.setClk x v).rcc.sw = s.rcc.sw := rfl
@[simp] theorem State.setClk_sws (x : Src) (v : ClkPhase) : (s.setClk x v).rcc.sws = s.rcc.sws := rfl
@[simp] theorem State.setClk_hpre (x : Src) (v : ClkPhase) : (s.setClk x v).rcc.hpre = s.rcc.hpre := rfl
@[simp] theorem State.setClk_ppre1 (x : Src) (v : ClkPhase) : (s.setClk x v).rcc.ppre1 = s.rcc.ppre1 := rfl
@[simp] theorem State.setClk_ppre2 (x : Src) (v : ClkPhase) : (s.setClk x v).rcc.ppre2 = s.rcc.ppre2 := rfl
@[simp] theorem State.setClk_enr (x : Src) (v : ClkPhase) : (s.setClk x v).rcc.enr = s.rcc.enr := rfl
@[simp] theorem State.setClk_i2c (x : Src) (v : ClkPhase) : (s.setClk x v).i2c = s.i2c := rfl
@[simp] theorem State.setClk_host (x : Src) (v : ClkPhase) : (s.setClk x v).host = s.host := rfl
@[simp] theorem State.setClk_wire (x : Src) (v : ClkPhase) : (s.setClk x v).wire = s.wire := rfl
@[simp] theorem State.setClk_refused (x : Src) (v : ClkPhase) : (s.setClk x v).refused = s.refused := rfl
@[simp] theorem State.setClk_prog (x : Src) (v : ClkPhase) : (s.setClk x v).prog = s.prog := rfl
@[simp] theorem State.setClk_params (x : Src) (v : ClkPhase) : (s.setClk x v).params = s.params := rfl
@[simp] theorem State.setClk_env (x : Src) (v : ClkPhase) : (s.setClk x v).env = s.env := rfl

@[simp] theorem State.setEnr_enr (b : Bus) (w : Word) : (s.setEnr b w).rcc.enr = s.rcc.enr.set b w := rfl
@[simp] theorem State.setEnr_on (b : Bus) (w : Word) : (s.setEnr b w).rcc.on = s.rcc.on := rfl
@[simp] theorem State.setEnr_rdy (b : Bus) (w : Word) : (s.setEnr b w).rcc.rdy = s.rcc.rdy := rfl
@[simp] theorem State.setEnr_clk (b : Bus) (w : Word) : (s.setEnr b w).rcc.clk = s.rcc.clk := rfl
@[simp] theorem State.setEnr_pll (b : Bus) (w : Word) : (s.setEnr b w).rcc.pll = s.rcc.pll := rfl
@[simp] theorem State.setEnr_sw (b : Bus) (w : Word) : (s.setEnr b w).rcc.sw = s.rcc.sw := rfl
@[simp] theorem State.setEnr_sws (b : Bus) (w : Word) : (s.setEnr b w).rcc.sws = s.rcc.sws := rfl
@[simp] theorem State.setEnr_hpre (b : Bus) (w : Word) : (s.setEnr b w).rcc.hpre = s.rcc.hpre := rfl
@[simp] theorem State.setEnr_ppre1 (b : Bus) (w : Word) : (s.setEnr b w).rcc.ppre1 = s.rcc.ppre1 := rfl
@[simp] theorem State.setEnr_ppre2 (b : Bus) (w : Word) : (s.setEnr b w).rcc.ppre2 = s.rcc.ppre2 := rfl
@[simp] theorem State.setEnr_i2c (b : Bus) (w : Word) : (s.setEnr b w).i2c = s.i2c := rfl
@[simp] theorem State.setEnr_host (b : Bus) (w : Word) : (s.setEnr b w).host = s.host := rfl
@[simp] theorem State.setEnr_wire (b : Bus) (w : Word) : (s.setEnr b w).wire = s.wire := rfl
@[simp] theorem State.setEnr_refused (b : Bus) (w : Word) : (s.setEnr b w).refused = s.refused := rfl
@[simp] theorem State.setEnr_prog (b : Bus) (w : Word) : (s.setEnr b w).prog = s.prog := rfl
@[simp] theorem State.setEnr_params (b : Bus) (w : Word) : (s.setEnr b w).params = s.params := rfl
@[simp] theorem State.setEnr_env (b : Bus) (w : Word) : (s.setEnr b w).env = s.env := rfl

/-! ### The I2C updates -/

@[simp] theorem State.clearRxTail_rcc : s.clearRxTail.rcc = s.rcc := rfl
@[simp] theorem State.clearRxTail_host : s.clearRxTail.host = s.host := rfl
@[simp] theorem State.clearRxTail_wire : s.clearRxTail.wire = s.wire := rfl
@[simp] theorem State.clearRxTail_refused : s.clearRxTail.refused = s.refused := rfl
@[simp] theorem State.clearRxTail_prog : s.clearRxTail.prog = s.prog := rfl
@[simp] theorem State.clearRxTail_params : s.clearRxTail.params = s.params := rfl
@[simp] theorem State.clearRxTail_env : s.clearRxTail.env = s.env := rfl
@[simp] theorem State.clearRxTail_role : s.clearRxTail.i2c.role = s.i2c.role := rfl
@[simp] theorem State.clearRxTail_busy : s.clearRxTail.i2c.busy = s.i2c.busy := rfl
@[simp] theorem State.clearRxTail_rxTail : s.clearRxTail.i2c.rxTail = false := rfl

@[simp] theorem State.takeBus_rcc (d : Dir) : (s.takeBus d).rcc = s.rcc := rfl
@[simp] theorem State.takeBus_host (d : Dir) : (s.takeBus d).host = s.host := rfl
@[simp] theorem State.takeBus_wire (d : Dir) : (s.takeBus d).wire = s.wire := rfl
@[simp] theorem State.takeBus_refused (d : Dir) : (s.takeBus d).refused = s.refused := rfl
@[simp] theorem State.takeBus_prog (d : Dir) : (s.takeBus d).prog = s.prog := rfl
@[simp] theorem State.takeBus_params (d : Dir) : (s.takeBus d).params = s.params := rfl
@[simp] theorem State.takeBus_env (d : Dir) : (s.takeBus d).env = s.env := rfl
@[simp] theorem State.takeBus_role (d : Dir) : (s.takeBus d).i2c.role = .master d := rfl
@[simp] theorem State.takeBus_busy (d : Dir) : (s.takeBus d).i2c.busy = true := rfl

@[simp] theorem State.applyFail_rcc (f : Failure) : (s.applyFail f).rcc = s.rcc := by cases f <;> rfl
@[simp] theorem State.applyFail_host (f : Failure) : (s.applyFail f).host = s.host := by cases f <;> rfl
@[simp] theorem State.applyFail_wire (f : Failure) : (s.applyFail f).wire = s.wire := by cases f <;> rfl
@[simp] theorem State.applyFail_refused (f : Failure) : (s.applyFail f).refused = s.refused := by cases f <;> rfl
@[simp] theorem State.applyFail_prog (f : Failure) : (s.applyFail f).prog = s.prog := by cases f <;> rfl
@[simp] theorem State.applyFail_params (f : Failure) : (s.applyFail f).params = s.params := by cases f <;> rfl
@[simp] theorem State.applyFail_env (f : Failure) : (s.applyFail f).env = s.env := by cases f <;> rfl
@[simp] theorem State.applyFail_inited (f : Failure) : (s.applyFail f).i2c.inited = s.i2c.inited := by cases f <;> rfl
@[simp] theorem State.applyFail_pe (f : Failure) : (s.applyFail f).i2c.pe = s.i2c.pe := by cases f <;> rfl
@[simp] theorem State.applyFail_rxTail (f : Failure) : (s.applyFail f).i2c.rxTail = s.i2c.rxTail := by cases f <;> rfl
@[simp] theorem State.applyFail_ack (f : Failure) : (s.applyFail f).i2c.ack = s.i2c.ack := by cases f <;> rfl

@[simp] theorem State.setAck_rcc (v : Bool) : (s.setAck v).rcc = s.rcc := rfl
@[simp] theorem State.setAck_host (v : Bool) : (s.setAck v).host = s.host := rfl
@[simp] theorem State.setAck_wire (v : Bool) : (s.setAck v).wire = s.wire := rfl
@[simp] theorem State.setAck_refused (v : Bool) : (s.setAck v).refused = s.refused := rfl
@[simp] theorem State.setAck_prog (v : Bool) : (s.setAck v).prog = s.prog := rfl
@[simp] theorem State.setAck_params (v : Bool) : (s.setAck v).params = s.params := rfl
@[simp] theorem State.setAck_env (v : Bool) : (s.setAck v).env = s.env := rfl
@[simp] theorem State.setAck_ack (v : Bool) : (s.setAck v).i2c.ack = v := rfl
@[simp] theorem State.setAck_role (v : Bool) : (s.setAck v).i2c.role = s.i2c.role := rfl

@[simp] theorem State.setRxTail_rcc (v : Bool) : (s.setRxTail v).rcc = s.rcc := rfl
@[simp] theorem State.setRxTail_host (v : Bool) : (s.setRxTail v).host = s.host := rfl
@[simp] theorem State.setRxTail_wire (v : Bool) : (s.setRxTail v).wire = s.wire := rfl
@[simp] theorem State.setRxTail_prog (v : Bool) : (s.setRxTail v).prog = s.prog := rfl
@[simp] theorem State.setRxTail_params (v : Bool) : (s.setRxTail v).params = s.params := rfl
@[simp] theorem State.setRxTail_env (v : Bool) : (s.setRxTail v).env = s.env := rfl
@[simp] theorem State.setRxTail_role (v : Bool) : (s.setRxTail v).i2c.role = s.i2c.role := rfl
@[simp] theorem State.setRxTail_rxTail (v : Bool) : (s.setRxTail v).i2c.rxTail = v := rfl

/-! ### The draw and the i2c clock do not see the host part -/

@[simp] theorem State.draw_emit (e : WireEvent) : (s.emit e).draw = s.draw := rfl
@[simp] theorem State.draw_setAck (v : Bool) : (s.setAck v).draw = s.draw := rfl
@[simp] theorem State.draw_clearRxTail : s.clearRxTail.draw = s.draw := rfl
@[simp] theorem i2cClk_finish (r : Result) : i2cClk (s.finish r) = i2cClk s := rfl
@[simp] theorem i2cClk_advance : i2cClk s.advance = i2cClk s := rfl
@[simp] theorem i2cClk_emit (e : WireEvent) : i2cClk (s.emit e) = i2cClk s := rfl

end Sys2Proof.Machine
end

