-- ==== Sys2Proof/Laws/Ops.lean ====
section
/-! SUPPORT. For each shared operation, one lemma that says everything it can do; proofs cite it instead of unfolding
the operation. -/

namespace Sys2Proof.Machine

/-! ### Host rule -/

/-- The end of an operation, both ways of the host rule (60_exceptions.md R232). -/
theorem State.finish_cases (r : Result) (s : State) :
    (r = .ok ∧ (s.finish r).host.pc = s.host.pc + 1 ∧
      (s.finish r).host.status = if s.host.pc + 1 = s.prog.length then .done else s.host.status) ∨
    (r ≠ .ok ∧ (s.finish r).host.pc = s.host.pc ∧ (s.finish r).host.status = .halted r) := by
  by_cases h : r = .ok
  · subst h; exact .inl ⟨rfl, rfl, rfl⟩
  · exact .inr ⟨h, State.finish_bad_pc s r h, State.finish_bad_status s r h⟩

/-! ### RCC -/

/-- The first step of SetClockState (40_rcc_clock.md R120). -/
theorem clkFirst_cases (src : BitVec 3) (state : BitVec 2) (s : State) :
    (srcOfCode src = none ∧ clkFirst src state s = s.finish .invalidClockType) ∨
    (∃ x, srcOfCode src = some x ∧
      ((onOffOfCode state = none ∧ clkFirst src state s = s.finish .invalidClockState) ∨
       (onOffOfCode state = some false ∧ inUse s x = true ∧ clkFirst src state s = s.raise .disableInUse) ∨
       (onOffOfCode state = some false ∧ inUse s x = false ∧
         clkFirst src state s = ((s.setOn x false).setClk x .disabled).finish .ok) ∨
       (onOffOfCode state = some true ∧
         clkFirst src state s = ((s.setOn x true).setClk x .enabling).goOn (.clkPoll x 0)))) := by
  cases hx : srcOfCode src with
  | none => exact .inl ⟨rfl, by simp only [clkFirst, hx]⟩
  | some x =>
    refine .inr ⟨x, rfl, ?_⟩
    cases hb : onOffOfCode state with
    | none => exact .inl ⟨rfl, by simp only [clkFirst, hx, hb]⟩
    | some b =>
      cases b with
      | true => exact .inr (.inr (.inr ⟨rfl, by simp only [clkFirst, hx, hb, clkOn]⟩))
      | false =>
        cases hu : inUse s x with
        | true => exact .inr (.inl ⟨rfl, rfl, by simp [clkFirst, hx, hb, clkOff, hu]⟩)
        | false => exact .inr (.inr (.inl ⟨rfl, rfl, by simp [clkFirst, hx, hb, clkOff, hu]⟩))

/-- A poll of SetClockState (40_rcc_clock.md R120). -/
theorem clkPoll_cases (x : Src) (k : Nat) (s : State) :
    (s.rcc.rdy.get x = true ∧ clkPoll x k s = (s.setClk x .ready).finish .ok) ∨
    (s.rcc.rdy.get x = false ∧ s.params.ceil ≤ k + 1 ∧ clkPoll x k s = (s.setClk x .timedOut).finish .timeout) ∨
    (s.rcc.rdy.get x = false ∧ k + 1 < s.params.ceil ∧ clkPoll x k s = s.goOn (.clkPoll x (k + 1))) := by
  cases h : s.rcc.rdy.get x with
  | true => exact .inl ⟨rfl, by simp [clkPoll, h]⟩
  | false =>
    by_cases hk : s.params.ceil ≤ k + 1
    · exact .inr (.inl ⟨rfl, hk, by simp [clkPoll, h, hk]⟩)
    · exact .inr (.inr ⟨rfl, by omega, by simp [clkPoll, h, hk]⟩)

/-- A prescaler operation (41_rcc_bus.md R140 to R142). -/
theorem prescale_cases (b : PrescBus) (code : Byte) (write : State → State) (s : State) :
    (code ∈ prescLegal s.params b ∧ prescale b code write s = (write s).finish .ok) ∨
    (code ∉ prescLegal s.params b ∧ prescale b code write s = s.finish (.invalidPrescaler b)) := by
  by_cases h : code ∈ prescLegal s.params b
  · exact .inl ⟨h, by simp [prescale, h]⟩
  · exact .inr ⟨h, by simp [prescale, h]⟩

/-- A gate operation (41_rcc_bus.md R143, R144). -/
theorem gate_cases (bus : BitVec 3) (bit : Nat) (bad : Result) (write : Bus → State → State) (s : State) :
    (busOfCode bus = none ∧ gate bus bit bad write s = s.finish .invalidBus) ∨
    (∃ b, busOfCode bus = some b ∧
      ((legalBit s.params b bit = false ∧ gate bus bit bad write s = s.finish bad) ∨
       (legalBit s.params b bit = true ∧ gate bus bit bad write s = write b s))) := by
  cases hb : busOfCode bus with
  | none => exact .inl ⟨rfl, by simp only [gate, hb]⟩
  | some b =>
    refine .inr ⟨b, rfl, ?_⟩
    cases hl : legalBit s.params b bit with
    | false => exact .inl ⟨rfl, by simp [gate, hb, hl]⟩
    | true => exact .inr ⟨rfl, by simp [gate, hb, hl]⟩

/-- A delay (42_delay.md R160, R161). -/
theorem delay_cases (n max : Nat) (s : State) :
    (1 ≤ n ∧ n ≤ max ∧ delay n max s = s.finish .ok) ∨ ((n = 0 ∨ max < n) ∧ delay n max s = s.raise .delayRange) := by
  by_cases h : n = 0 ∨ max < n
  · exact .inr ⟨h, if_pos h⟩
  · exact .inl ⟨by omega, by omega, if_neg h⟩

/-! ### I2C -/

/-- The admission guard (43_i2c_master.md R170). -/
theorem i2cGuard_none (s : State) : i2cGuard s = none ↔ i2cClk s = true ∧ s.i2c.inited = true := by
  unfold i2cGuard
  cases i2cClk s <;> cases s.i2c.inited <;> simp

/-- The first step of Start and RepeatedStart (43_i2c_master.md R173, R174, R178). -/
theorem startFirst_cases (rest : State → State) (s : State) :
    (∃ reason, i2cGuard s = some reason ∧ startFirst rest s = s.raise reason) ∨
    (i2cGuard s = none ∧ staleFails s = true ∧ startFirst rest s = s.clearRxTail.finish .failed) ∨
    (i2cGuard s = none ∧ staleFails s = false ∧ startFirst rest s = rest s.clearRxTail) := by
  cases hg : i2cGuard s with
  | some reason => exact .inl ⟨reason, rfl, by simp only [startFirst, hg]⟩
  | none =>
    cases hs : staleFails s with
    | true => exact .inr (.inl ⟨rfl, rfl, by simp [startFirst, hg, hs]⟩)
    | false => exact .inr (.inr ⟨rfl, rfl, by simp [startFirst, hg, hs]⟩)

/-- The first step of MasterWriteData and ReadData (43_i2c_master.md R175, R176, 60_exceptions.md R234). -/
theorem transferFirst_cases (against : Dir) (p : Position) (buf len : Nat) (s : State) :
    (∃ reason, transferFirst against p buf len s = s.raise reason) ∨
    (i2cGuard s = none ∧ buf + len ≤ Memory.size ∧ s.i2c.role ≠ .master against ∧
      ((staleFails s = true ∧ transferFirst against p buf len s = s.clearRxTail.finish .failed) ∨
       (staleFails s = false ∧ len = 0 ∧ transferFirst against p buf len s = s.clearRxTail.finish .ok) ∨
       (staleFails s = false ∧ 0 < len ∧ s.i2c.role = .idle ∧
         transferFirst against p buf len s = s.clearRxTail.hang .noTransaction) ∨
       (staleFails s = false ∧ 0 < len ∧ s.i2c.role ≠ .idle ∧
         transferFirst against p buf len s = s.clearRxTail.goOn p))) := by
  unfold transferFirst
  cases hg : i2cGuard s with
  | some reason => exact .inl ⟨reason, rfl⟩
  | none =>
    by_cases hb : Memory.size < buf + len
    · exact .inl ⟨.bufferRange, by simp [bufferOverruns, hb]⟩
    · have hb' : bufferOverruns buf len = false := by simp [bufferOverruns]; omega
      by_cases hr : s.i2c.role = .master against
      · exact .inl ⟨.directionMismatch, by simp [hb', hr]⟩
      · refine .inr ⟨rfl, by omega, hr, ?_⟩
        cases hs : staleFails s with
        | true => exact .inl ⟨rfl, by simp [hb', hr]⟩
        | false =>
          by_cases hl : len = 0
          · subst hl; exact .inr (.inl ⟨rfl, rfl, by simp [hb', hr]⟩)
          · by_cases hi : s.i2c.role = .idle
            · exact .inr (.inr (.inl ⟨rfl, by omega, hi, by simp [hb', hl, hi]⟩))
            · exact .inr (.inr (.inr ⟨rfl, by omega, hi, by simp [hb', hr, hl, hi]⟩))

/-- Start generation (43_i2c_master.md R172). -/
theorem startGeneration_cases (rep : Bool) (a : BitVec 7) (d : Dir) (s : State) :
    (rep = false ∧ s.i2c.busy = true ∧ startGeneration rep a d s = s) ∨
    ((rep = false → s.i2c.busy = false) ∧
      ((s.draw.start = .stall ∧ startGeneration rep a d s = s.hang .stall) ∨
       (∃ e, s.draw.start = .fail e ∧ startGeneration rep a d s = (s.emit (.fail e)).fails (failureOfErr e)) ∨
       (s.draw.start = .ok ∧ startGeneration rep a d s =
         ((s.emit (if rep then .repStart else .start)).takeBus d).goOn (.addrPhase rep a d)))) := by
  by_cases hw : rep = false ∧ s.i2c.busy = true
  · exact .inl ⟨hw.1, hw.2, if_pos hw⟩
  · have hb : rep = false → s.i2c.busy = false := fun hr => by
      cases h : s.i2c.busy with
      | false => rfl
      | true => exact absurd ⟨hr, h⟩ hw
    refine .inr ⟨hb, ?_⟩
    unfold startGeneration
    rw [if_neg hw]
    cases h : s.draw.start with
    | stall => exact .inl ⟨rfl, rfl⟩
    | fail e => exact .inr (.inl ⟨e, rfl, rfl⟩)
    | ok => exact .inr (.inr ⟨rfl, rfl⟩)

/-- The address byte (43_i2c_master.md R172). -/
theorem addressByte_cases (a : BitVec 7) (d : Dir) (s : State) :
    (s.draw.tx = .stall ∧ addressByte a d s = s.hang .stall) ∨
    (s.draw.tx = .answer .ack ∧ addressByte a d s = (s.emit (.addr (addrByte a d) .ack)).finish .ok) ∨
    (∃ r f, s.draw.tx = .answer r ∧ failureOfResp r = some f ∧
      addressByte a d s = (s.emit (.addr (addrByte a d) r)).fails f) := by
  unfold addressByte
  cases h : s.draw.tx with
  | stall => exact .inl ⟨rfl, rfl⟩
  | answer r =>
    cases r with
    | ack => exact .inr (.inl ⟨rfl, rfl⟩)
    | nack => exact .inr (.inr ⟨.nack, .nack, rfl, rfl, rfl⟩)
    | arbLost => exact .inr (.inr ⟨.arbLost, .arbLost, rfl, rfl, rfl⟩)
    | busError => exact .inr (.inr ⟨.busError, .busError, rfl, rfl, rfl⟩)

/-- A byte of MasterWriteData inside host memory (43_i2c_master.md R175). -/
theorem sendByte_cases (buf len i : Nat) (s : State) (ha : buf + i < Memory.size) :
    ∃ t, sendByte buf len i s = .next t ∧
      ((s.draw.tx = .stall ∧ t = s.hang .stall) ∨
       (∃ r f, s.draw.tx = .answer r ∧ failureOfResp r = some f ∧
         t = (s.emit (.tx (s.byteAt (buf + i)) r)).fails f) ∨
       (s.draw.tx = .answer .ack ∧ len ≤ i + 1 ∧ t = (s.emit (.tx (s.byteAt (buf + i)) .ack)).finish .ok) ∨
       (s.draw.tx = .answer .ack ∧ i + 1 < len ∧
         t = (s.emit (.tx (s.byteAt (buf + i)) .ack)).goOn (.txPhase buf len (i + 1)))) := by
  refine ⟨byteSent buf len i (s.byteAt (buf + i)) s, by simp [sendByte, State.memRead_some, ha], ?_⟩
  unfold byteSent
  cases h : s.draw.tx with
  | stall => exact .inl ⟨rfl, rfl⟩
  | answer r =>
    cases r with
    | ack =>
      by_cases hl : len ≤ i + 1
      · exact .inr (.inr (.inl ⟨rfl, hl, by simp [failureOfResp, hl]⟩))
      · exact .inr (.inr (.inr ⟨rfl, by omega, by simp [failureOfResp, hl]⟩))
    | nack => exact .inr (.inl ⟨.nack, .nack, rfl, rfl, rfl⟩)
    | arbLost => exact .inr (.inl ⟨.arbLost, .arbLost, rfl, rfl, rfl⟩)
    | busError => exact .inr (.inl ⟨.busError, .busError, rfl, rfl, rfl⟩)

/-- The state in which byte i of ReadData has arrived: acknowledge set, event on the wire, byte in memory. -/
def State.received (buf len i : Nat) (v : Byte) (s : State) : State :=
  let t := (s.setAck (!decide (len ≤ i + 1))).emit (.rx v (wireAck (decide (len ≤ i + 1)) s))
  { t with host := { t.host with mem := t.host.mem.put (buf + i) v } }

/-- A byte of ReadData inside host memory (43_i2c_master.md R176). -/
theorem receiveByte_cases (buf len i : Nat) (s : State) (ha : buf + i < Memory.size) :
    ∃ t, receiveByte buf len i s = .next t ∧
      ((s.draw.rx = .stall ∧ t = (s.setAck (!decide (len ≤ i + 1))).hang .stall) ∨
       (∃ e, s.draw.rx = .fail e ∧
         t = ((s.setAck (!decide (len ≤ i + 1))).emit (.fail e)).fails (failureOfErr e)) ∨
       (∃ v, s.draw.rx = .data v ∧ len ≤ i + 1 ∧
         t = ((s.received buf len i v).setRxTail (wireAck true s)).finish .ok) ∨
       (∃ v, s.draw.rx = .data v ∧ i + 1 < len ∧ t = (s.received buf len i v).goOn (.rxPhase buf len (i + 1)))) := by
  unfold receiveByte
  cases h : s.draw.rx with
  | stall => exact ⟨_, rfl, .inl ⟨rfl, rfl⟩⟩
  | fail e => exact ⟨_, rfl, .inr (.inl ⟨e, rfl, rfl⟩)⟩
  | data v =>
    refine ⟨byteStored buf len i (wireAck (decide (len ≤ i + 1)) s) (s.received buf len i v), ?_, ?_⟩
    · simp only [State.memWrite_some _ _ _ ha]
      rfl
    · by_cases hl : len ≤ i + 1
      · exact .inr (.inr (.inl ⟨v, rfl, hl, by simp [byteStored, hl]⟩))
      · exact .inr (.inr (.inr ⟨v, rfl, by omega, by simp [byteStored, hl]⟩))

/-! ### Step -/

/-- What one step can be: an autonomous move, a passed turn, a refused word, or a host step of the operation at
`pc`. -/
theorem step_cases (s : State) :
    (∃ m, s.choice.move = some m ∧ step s = .next (envMove m s).advance) ∨
    (s.choice.move = none ∧ (s.hostRuns = false ∨ s.fetch = none) ∧ step s = .next s.advance) ∨
    (s.choice.move = none ∧ s.hostRuns = true ∧ ∃ w, s.fetch = some w ∧
      ((∃ e, decode w = .error e ∧ step s = .next (s.raise .invalidCommand).advance) ∨
       (∃ i, decode w = .ok i ∧ step s = mapNext State.advance (exec i s)))) := by
  cases hm : s.choice.move with
  | some m => exact .inl ⟨m, rfl, by simp [step, hm]⟩
  | none =>
    refine .inr ?_
    cases hr : s.hostRuns with
    | false => exact .inl ⟨rfl, .inl rfl, by simp [step, hm, hostTurn, hr, mapNext]⟩
    | true =>
      cases hf : s.fetch with
      | none => exact .inl ⟨rfl, .inr rfl, by simp [step, hm, hostTurn, hr, hf, mapNext]⟩
      | some w =>
        refine .inr ⟨rfl, rfl, w, rfl, ?_⟩
        cases hd : decode w with
        | error e => exact .inl ⟨e, rfl, by simp [step, hm, hostTurn, hr, hf, runCommand, hd, mapNext]⟩
        | ok i => exact .inr ⟨i, rfl, by simp [step, hm, hostTurn, hr, hf, runCommand, hd]⟩

end Sys2Proof.Machine
end

