-- ==== Sys2Proof/Laws/PerInstr.lean ====
section
/-! SUPPORT. One statement for every operation: its command word has the fixed bits of its own row of the opcode
table (30_encoding.md R90, R91). -/

namespace Sys2Proof.Laws

/-- A field does not reach bits outside its own. -/
theorem place_and_eq_zero {n : Nat} (v : BitVec n) (lo : Nat) (m : Command)
    (h : ∀ k < n, m.getLsbD (lo + k) = false) : place v lo &&& m = 0 := by
  apply BitVec.eq_of_getLsbD_eq
  intro i hi
  simp only [place, BitVec.getLsbD_and, BitVec.getLsbD_shiftLeft, BitVec.getLsbD_setWidth, BitVec.ofNat_eq_ofNat,
    BitVec.getLsbD_zero]
  by_cases hlo : i < lo
  · simp [hlo]
  · by_cases hn : i - lo < n
    · have := h (i - lo) hn
      rw [Nat.add_sub_cancel' (by omega)] at this
      simp [this]
    · simp [BitVec.getLsbD_of_ge v (i - lo) (by omega)]

/-- The row of the opcode table an operation's words match (30_encoding.md R92). -/
def rowMask : Instr → Command × Command
  | .clkState _ _ => (0xFFFFFFFFFFFFFFC8#64, 0x0100000000000000#64)
  | .pllCfg _ _ _ _ _ _ _ => (0xFFFF7FFF803C8000#64, 0x0101000000000000#64)
  | .setSysClk _ => (0xFFFFFFFFFFFFFFFC#64, 0x0102000000000000#64)
  | .getSysClk => (0xFFFFFFFFFFFFFFFF#64, 0x0103000000000000#64)
  | .ahbPre _ => (0xFFFFFFFFFFFFFF00#64, 0x0104000000000000#64)
  | .apb1Pre _ => (0xFFFFFFFFFFFFFF00#64, 0x0105000000000000#64)
  | .apb2Pre _ => (0xFFFFFFFFFFFFFF00#64, 0x0106000000000000#64)
  | .periphEn _ _ => (0xFFFFFFFFFFFF00F8#64, 0x0107000000000000#64)
  | .periphDis _ _ => (0xFFFFFFFFFFFF00F8#64, 0x0108000000000000#64)
  | .delayMs _ => (0xFFFFFFFF00000000#64, 0x0300000000000000#64)
  | .delayUs _ => (0xFFFFFFFF00000000#64, 0x0301000000000000#64)
  | .i2cInit _ _ _ => (0xFFFFFFFF7C00FFC0#64, 0x0200000000000000#64)
  | .i2cStart _ _ => (0xFFFFFFFFFFFFFE80#64, 0x0201000000000000#64)
  | .i2cRestart _ _ => (0xFFFFFFFFFFFFFE80#64, 0x0202000000000000#64)
  | .i2cWrite _ _ => (0xFFFF000000000000#64, 0x0203000000000000#64)
  | .i2cRead _ _ => (0xFFFF000000000000#64, 0x0204000000000000#64)
  | .i2cStop => (0xFFFFFFFFFFFFFFFF#64, 0x0205000000000000#64)

/-- The operation's command word has its row's fixed bits. -/
def RowBits.Statement (i : Instr) : Prop := encode i &&& (rowMask i).1 = (rowMask i).2

theorem RowBits.clkState (src : BitVec 3) (state : BitVec 2) : Statement (.clkState src state) := by
  simp only [Statement, encode, rowMask, BitVec.and_or_distrib_right]
  rw [place_and_eq_zero src 0 _ (by decide), place_and_eq_zero state 4 _ (by decide)]
  decide

theorem RowBits.pllCfg (m : BitVec 6) (n : BitVec 9) (p psrc : BitVec 2) (q : BitVec 4) (r : BitVec 3) (nul : Bool) :
    Statement (.pllCfg m n p psrc q r nul) := by
  simp only [Statement, encode, rowMask, BitVec.and_or_distrib_right]
  rw [place_and_eq_zero m 0 _ (by decide), place_and_eq_zero n 6 _ (by decide), place_and_eq_zero p 16 _ (by decide),
    place_and_eq_zero psrc 22 _ (by decide), place_and_eq_zero q 24 _ (by decide),
    place_and_eq_zero r 28 _ (by decide), place_and_eq_zero (BitVec.ofBool nul) 47 _ (by decide)]
  decide

theorem RowBits.setSysClk (sel : Sel) : Statement (.setSysClk sel) := by
  simp only [Statement, encode, rowMask, BitVec.and_or_distrib_right]
  rw [place_and_eq_zero sel.code 0 _ (by decide)]
  decide

theorem RowBits.getSysClk : Statement .getSysClk := by
  unfold Statement; decide

theorem RowBits.ahbPre (code : Byte) : Statement (.ahbPre code) := by
  simp only [Statement, encode, rowMask, BitVec.and_or_distrib_right]
  rw [place_and_eq_zero code 0 _ (by decide)]
  decide

theorem RowBits.apb1Pre (code : Byte) : Statement (.apb1Pre code) := by
  simp only [Statement, encode, rowMask, BitVec.and_or_distrib_right]
  rw [place_and_eq_zero code 0 _ (by decide)]
  decide

theorem RowBits.apb2Pre (code : Byte) : Statement (.apb2Pre code) := by
  simp only [Statement, encode, rowMask, BitVec.and_or_distrib_right]
  rw [place_and_eq_zero code 0 _ (by decide)]
  decide

theorem RowBits.periphEn (bus : BitVec 3) (bit : Nat) : Statement (.periphEn bus bit) := by
  simp only [Statement, encode, rowMask, BitVec.and_or_distrib_right]
  rw [place_and_eq_zero bus 0 _ (by decide), place_and_eq_zero (BitVec.ofNat 8 bit) 8 _ (by decide)]
  decide

theorem RowBits.periphDis (bus : BitVec 3) (bit : Nat) : Statement (.periphDis bus bit) := by
  simp only [Statement, encode, rowMask, BitVec.and_or_distrib_right]
  rw [place_and_eq_zero bus 0 _ (by decide), place_and_eq_zero (BitVec.ofNat 8 bit) 8 _ (by decide)]
  decide

theorem RowBits.delayMs (n : Nat) : Statement (.delayMs n) := by
  simp only [Statement, encode, rowMask, BitVec.and_or_distrib_right]
  rw [place_and_eq_zero (BitVec.ofNat 32 n) 0 _ (by decide)]
  decide

theorem RowBits.delayUs (n : Nat) : Statement (.delayUs n) := by
  simp only [Statement, encode, rowMask, BitVec.and_or_distrib_right]
  rw [place_and_eq_zero (BitVec.ofNat 32 n) 0 _ (by decide)]
  decide

theorem RowBits.i2cInit (freq : BitVec 6) (own : BitVec 10) (am : BitVec 1) : Statement (.i2cInit freq own am) := by
  simp only [Statement, encode, rowMask, BitVec.and_or_distrib_right]
  rw [place_and_eq_zero freq 0 _ (by decide), place_and_eq_zero own 16 _ (by decide),
    place_and_eq_zero am 31 _ (by decide)]
  decide

theorem RowBits.i2cStart (a : BitVec 7) (d : Dir) : Statement (.i2cStart a d) := by
  simp only [Statement, encode, rowMask, BitVec.and_or_distrib_right]
  rw [place_and_eq_zero a 0 _ (by decide), place_and_eq_zero d.code 8 _ (by decide)]
  decide

theorem RowBits.i2cRestart (a : BitVec 7) (d : Dir) : Statement (.i2cRestart a d) := by
  simp only [Statement, encode, rowMask, BitVec.and_or_distrib_right]
  rw [place_and_eq_zero a 0 _ (by decide), place_and_eq_zero d.code 8 _ (by decide)]
  decide

theorem RowBits.i2cWrite (buf len : Nat) : Statement (.i2cWrite buf len) := by
  simp only [Statement, encode, rowMask, BitVec.and_or_distrib_right]
  rw [place_and_eq_zero (BitVec.ofNat 16 len) 0 _ (by decide), place_and_eq_zero (BitVec.ofNat 32 buf) 16 _ (by decide)]
  decide

theorem RowBits.i2cRead (buf len : Nat) : Statement (.i2cRead buf len) := by
  simp only [Statement, encode, rowMask, BitVec.and_or_distrib_right]
  rw [place_and_eq_zero (BitVec.ofNat 16 len) 0 _ (by decide), place_and_eq_zero (BitVec.ofNat 32 buf) 16 _ (by decide)]
  decide

theorem RowBits.i2cStop : Statement .i2cStop := by
  unfold Statement; decide

end Sys2Proof.Laws
end

