-- ==== Sys2Proof/Tests/Slice0.lean ====
section
/-! SUPPORT. Tests of the model against 95_test_vectors.md and the encodings of 30_encoding.md, and a witness that the
hypotheses of each statement can be met. The start states are those of 95_test_vectors.md section 0. -/

namespace Sys2Proof.Tests
open Sys2Proof Sys2Proof.Machine

/-! ### Start states (95_test_vectors.md section 0) -/

/-- The parameters of 95_test_vectors.md section 0: the suggested sets and ranges of 00_scope.md R8. -/
def params : Params where
  ceil := 3
  i2cInst := .i2c1
  ahbPrescLegal := [0, 8, 9, 10, 11, 12, 13, 14, 15]
  apb1PrescLegal := [0, 4, 5, 6, 7]
  apb2PrescLegal := [0, 4, 5, 6, 7]
  ahb1Range := { lo := 0, hi := 30 }
  apb1Range := { lo := 0, hi := 29 }
  apb2Range := { lo := 0, hi := 23 }
  rxTailRace := false
  delayMaxMs := 1000
  delayMaxUs := 1000
  ahb1enrReset := 0x00100000

/-- Draws that let everything succeed. -/
def calm : Draw where
  start := .ok
  tx := .answer .ack
  rx := .data 0x14
  stale := false
  lastAck := false
  dropRole := false
  busAfter := false
  extra := 0x7F

/-- A choice that gives the host its step. -/
def turn (d : Draw) : Choice := { move := none, draw := d }

/-- A choice of an autonomous move. -/
def moved (m : Move) : Choice := { move := some m, draw := calm }

/-- S0 with a one-operation program. -/
def s0 (i : Instr) (c : Choice) : State := State.launch [encode i] [] params [c]

/-- SI: S0 with the I2C1 gate set and Initialize done. -/
def si (i : Instr) (d : Draw) : State :=
  { s0 i (turn d) with
    rcc := { Rcc.reset 0x00100000 with enr := { ahb1 := 0x00100000, ahb2 := 0, ahb3 := 0, apb1 := 0x00200000, apb2 := 0 } }
    i2c := { I2c.reset with inited := true, pe := true, freq := 16 } }

/-- SI with a transaction open in direction `x`. -/
def held (x : Dir) (i : Instr) (d : Draw) : State :=
  { si i d with i2c := { (si i d).i2c with role := .master x, busy := true } }

/-- A state in which the host stands inside its operation. -/
def inside (p : Position) (s : State) : State := { s with host := { s.host with op := some p } }

/-- The next state, if the outcome is one. -/
def nextOf : Host.Outcome State Fault Refusal → Option State
  | .next t => some t
  | .fault _ => none
  | .refused _ => none

/-- A field of the state one step leads to. -/
def see {α : Type} (f : State → α) (s : State) : Option α := (nextOf (step s)).map f

/-! ### WellFormed refuses what no command word can hold -/

theorem test_wf_periphEn : ¬ (Instr.periphEn 3 256).WellFormed := by decide
theorem test_wf_periphDis : ¬ (Instr.periphDis 3 256).WellFormed := by decide
theorem test_wf_delayMs : ¬ (Instr.delayMs 4294967296).WellFormed := by decide
theorem test_wf_delayUs : ¬ (Instr.delayUs 4294967296).WellFormed := by decide
theorem test_wf_write_buf : ¬ (Instr.i2cWrite 4294967296 1).WellFormed := by decide
theorem test_wf_write_len : ¬ (Instr.i2cWrite 0 65536).WellFormed := by decide
theorem test_wf_read_buf : ¬ (Instr.i2cRead 4294967296 1).WellFormed := by decide
theorem test_wf_read_len : ¬ (Instr.i2cRead 0 65536).WellFormed := by decide

/-! ### Decoding: words written out from the field layouts of 30_encoding.md R93 to R95 -/

/-- CLK-9: SRC = 4, STATE = 1. -/
theorem test_decode_clkState : decode 0x0100000000000014 = .ok (.clkState 4 1) := by decide
/-- The field check of PLL-1. -/
theorem test_decode_pllCfg : decode 0x0101000027405A08 = .ok (.pllCfg 8 360 0 1 7 2 false) := by decide
/-- PLL-5: the reserved source code 2. -/
theorem test_decode_pllCfg_src2 : decode 0x0101000053811904 = .ok (.pllCfg 4 100 1 2 3 5 false) := by decide
/-- SYS-4. -/
theorem test_decode_setSysClk : decode 0x0102000000000003 = .ok (.setSysClk .pllr) := by decide
/-- SYS-1. -/
theorem test_decode_getSysClk : decode 0x0103000000000000 = .ok .getSysClk := by decide
/-- PRE-5: a code that does not fit the field decodes. -/
theorem test_decode_ahbPre : decode 0x0104000000000010 = .ok (.ahbPre 16) := by decide
/-- PRE-6. -/
theorem test_decode_apb1Pre : decode 0x0105000000000005 = .ok (.apb1Pre 5) := by decide
/-- PRE-12. -/
theorem test_decode_apb2Pre : decode 0x01060000000000FF = .ok (.apb2Pre 255) := by decide
/-- GATE-12. -/
theorem test_decode_periphEn : decode 0x010700000000C807 = .ok (.periphEn 7 200) := by decide
/-- GATE-16. -/
theorem test_decode_periphDis : decode 0x0108000000001503 = .ok (.periphDis 3 21) := by decide
/-- DLY-7. -/
theorem test_decode_delayMs : decode 0x03000000FFFFFFFF = .ok (.delayMs 4294967295) := by decide
/-- DLY-2. -/
theorem test_decode_delayUs : decode 0x03010000000000C8 = .ok (.delayUs 200) := by decide
/-- INIT-4. -/
theorem test_decode_i2cInit : decode 0x0200000082F50010 = .ok (.i2cInit 16 0x2F5 1) := by decide
/-- I2C-14. -/
theorem test_decode_i2cStart : decode 0x020100000000017F = .ok (.i2cStart 0x7F .r) := by decide
/-- I2C-18. -/
theorem test_decode_i2cRestart : decode 0x0202000000000168 = .ok (.i2cRestart 0x68 .r) := by decide
/-- WR-9. -/
theorem test_decode_i2cWrite : decode 0x0203FFFFFFFF0002 = .ok (.i2cWrite 0xFFFFFFFF 2) := by decide
/-- RD-1. -/
theorem test_decode_i2cRead : decode 0x0204200001000003 = .ok (.i2cRead 0x20000100 3) := by decide
/-- STOP-1. -/
theorem test_decode_i2cStop : decode 0x0205000000000000 = .ok .i2cStop := by decide

/-- The decoder vectors DEC-1 to DEC-18 of 95_test_vectors.md section 2.12 name no operation. -/
theorem test_decode_rejects :
    ([0x0000000000000000, 0x0400000000000000, 0xFFFFFFFFFFFFFFFF, 0x0109000000000000, 0x0206000000000000,
      0x0302000000000000, 0x0100000000000019, 0x0101000000008000, 0x0101000000040000, 0x0101000080000000,
      0x0102000000000004, 0x0103000000000001, 0x0104000000000108, 0x0107000000000008, 0x0300000100000005,
      0x0200000000000050, 0x02010000000000E8, 0x0205000000000001] : List Command).all
      (fun w => (opcodeTable.find? (fun r => r.hits w)).isNone) = true := by decide

/-- A rejected word is rejected by name. -/
theorem test_decode_reject_names :
    decode 0x0400000000000000 = .error (.unknownUnit 4) ∧ decode 0x0109000000000000 = .error (.unknownOp 1 9) ∧
    decode 0x0302000000000000 = .error (.unknownOp 3 2) ∧ decode 0x0100000000000019 = .error (.reservedBit 1 0) := by
  decide

/-- No two rows match one word: two rows differ in a bit both fix (30_encoding.md R91). -/
theorem test_rows_disjoint :
    opcodeTable.Pairwise (fun x y => x.mtch &&& (x.mask &&& y.mask) ≠ y.mtch &&& (x.mask &&& y.mask)) := by decide

/-- The rows' mnemonics, in the order of spec/opcode_table.json. -/
theorem test_rows_mnemonics :
    opcodeTable.map Row.mnemonic = ["RCC.CLKSTATE", "RCC.PLLCFG", "RCC.SETSYSCLK", "RCC.GETSYSCLK", "RCC.AHBPRE",
      "RCC.APB1PRE", "RCC.APB2PRE", "RCC.PERIPH_EN", "RCC.PERIPH_DIS", "DELAY.MS", "DELAY.US", "I2C.INIT", "I2C.START",
      "I2C.RESTART", "I2C.WRITE", "I2C.READ", "I2C.STOP"] := by decide

/-- The table's numbering of the bits is the command word's (GATE-5), and a shorter row leaves the rest 0. -/
theorem test_decodeTableWord :
    decodeTableWord 64 0x0107000000001503 = some (.periphEn 3 21) ∧ decodeTableWord 8 0x0107000000001503 = none := by
  decide

/-- A word placed by `withFetchWord` is what the next step runs: GETSYSCLK on the reset state ends Done with Ok. -/
theorem test_withFetchWord :
    see (fun t => (t.host.status, t.host.res, t.host.val)) (State.reset.withFetchWord 64 0x0103000000000000) =
      some (.done, .ok, 0) := by decide

/-! ### Single steps (95_test_vectors.md; each test names its vector) -/

/-- CLK-5: HSI feeds the system clock. -/
theorem test_clkState_disableInUse :
    see (fun t => (t.refused, t.rcc.on.hsi)) (s0 (.clkState 0 0) (turn calm)) = some (some .disableInUse, true) := by
  decide
/-- W1d: the flag that rises before the last poll is seen, not timed out. -/
theorem test_clkState_lastPoll :
    see (fun t => (t.rcc.clk.hse, t.host.status))
      (((inside (.clkPoll .hse 2) (s0 (.clkState 1 1) (turn calm))).setOn .hse true).setRdy .hse true) =
      some (.ready, .done) := by decide
/-- PLL-1. -/
theorem test_pllCfg_fields :
    see (fun t => t.rcc.pll) (s0 (.pllCfg 8 360 0 1 7 2 false) (turn calm)) =
      some { m := 8, n := 360, p := 0, q := 7, r := 2, src := 1 } := by decide
/-- PLL-5: the fields are written before the source is rejected. -/
theorem test_pllCfg_badSource :
    see (fun t => (t.rcc.pll, t.host.status)) (s0 (.pllCfg 4 100 1 2 3 5 false) (turn calm)) =
      some ({ m := 4, n := 100, p := 1, q := 3, r := 5, src := 0 }, .halted .invalidPllSource) := by decide
/-- W9, first operation. -/
theorem test_setSysClk_pending :
    see (fun t => (t.rcc.sw, t.rcc.sws, t.host.res)) (s0 (.setSysClk .pllp) (turn calm)) = some (.pllp, .hsi, .ok) := by
  decide
/-- SYS-4 with the switch still pending: the status is read, not the selection. -/
theorem test_getSysClk_status :
    see (fun t => t.host.val)
      { s0 .getSysClk (turn calm) with rcc := { Rcc.reset 0 with sw := .pllr, sws := .pllp } } = some 2 := by decide
/-- PRE-3. -/
theorem test_ahbPre_15 :
    see (fun t => (t.rcc.hpre, t.host.res)) (s0 (.ahbPre 15) (turn calm)) = some (15, .ok) := by decide
/-- PRE-5: 16 is no code, although its low four bits are. -/
theorem test_ahbPre_16 :
    see (fun t => (t.rcc.hpre, t.host.res)) (s0 (.ahbPre 16) (turn calm)) = some (0, .invalidPrescaler .ahb) := by decide
/-- PRE-9. -/
theorem test_apb1Pre_7 :
    see (fun t => (t.rcc.ppre1, t.rcc.ppre2)) (s0 (.apb1Pre 7) (turn calm)) = some (7, 0) := by decide
/-- PRE-8. -/
theorem test_apb1Pre_8 :
    see (fun t => t.host.res) (s0 (.apb1Pre 8) (turn calm)) = some (.invalidPrescaler .apb1) := by decide
/-- PRE-10. -/
theorem test_apb2Pre_4 :
    see (fun t => (t.rcc.ppre1, t.rcc.ppre2)) (s0 (.apb2Pre 4) (turn calm)) = some (0, 4) := by decide
/-- PRE-12. -/
theorem test_apb2Pre_255 :
    see (fun t => t.host.res) (s0 (.apb2Pre 255) (turn calm)) = some (.invalidPrescaler .apb2) := by decide
/-- W2c: the other bits of the gate word stay. -/
theorem test_periphEn_keeps :
    see (fun t => t.rcc.enr.ahb2) ((s0 (.periphEn 1 0) (turn calm)).setEnr .ahb2 0x80) = some 0x81 := by decide
/-- GATE-12: the bus is checked before the bit. -/
theorem test_periphEn_badBus :
    see (fun t => t.host.res) (s0 (.periphEn 7 200) (turn calm)) = some .invalidBus := by decide
/-- GATE-13. -/
theorem test_periphDis_keeps :
    see (fun t => t.rcc.enr.ahb2) ((s0 (.periphDis 1 7) (turn calm)).setEnr .ahb2 0x81) = some 0x01 := by decide
/-- GATE-16. -/
theorem test_periphDis_master :
    see (fun t => (t.refused, t.rcc.enr.apb1)) (held .w (.periphDis 3 21) calm) =
      some (some .gateOffWhileMaster, 0x00200000) := by decide
/-- DLY-1. -/
theorem test_delayMs_5 : see (fun t => (t.host.res, t.host.pc)) (s0 (.delayMs 5) (turn calm)) = some (.ok, 1) := by decide
/-- DLY-6. -/
theorem test_delayMs_1001 : see (fun t => t.refused) (s0 (.delayMs 1001) (turn calm)) = some (some .delayRange) := by
  decide
/-- DLY-2. -/
theorem test_delayUs_200 : see (fun t => (t.host.res, t.refused)) (s0 (.delayUs 200) (turn calm)) = some (.ok, none) := by
  decide
/-- DLY-5. -/
theorem test_delayUs_0 : see (fun t => t.refused) (s0 (.delayUs 0) (turn calm)) = some (some .delayRange) := by decide
/-- INIT-4, with its register realisation. -/
theorem test_i2cInit_own : see i2cOar1 (si (.i2cInit 16 0x2F5 1) calm) = some 0x82F5 := by decide
/-- INIT-6. -/
theorem test_i2cInit_master :
    see (fun t => t.refused) (held .w (.i2cInit 16 0 0) calm) = some (some .initWhileMaster) := by decide
/-- I2C-2, the address byte: the controller keeps the bus. -/
theorem test_i2cStart_nack :
    see (fun t => (t.i2c.af, t.i2c.role, t.host.status, t.wire))
      (inside (.addrPhase false 0x27 .w) (held .w (.i2cStart 0x27 .w) { calm with tx := .answer .nack })) =
      some (true, .master .w, .halted .failed, [.addr 0x4E .nack]) := by decide
/-- I2C-5: the bus error whose draws lose the bus and leave it free. -/
theorem test_i2cStart_busError :
    see (fun t => (t.i2c.berr, t.i2c.role, t.i2c.busy, t.wire))
      (inside (.busWait 0x68 .w)
        (si (.i2cStart 0x68 .w) { calm with start := .fail .busError, dropRole := true, busAfter := false })) =
      some (true, .idle, false, [.fail .busError]) := by decide
/-- I2C-18, the start generation: the direction turns. -/
theorem test_i2cRestart_repStart :
    see (fun t => (t.i2c.role, t.host.op, t.wire)) (inside (.repStart 0x68 .r) (held .w (.i2cRestart 0x68 .r) calm)) =
      some (.master .r, some (.addrPhase true 0x68 .r), [.repStart]) := by decide
/-- I2C-19, the first step: with no transaction open it waits for the bus as a Start does. -/
theorem test_i2cRestart_idle :
    see (fun t => t.host.op) (si (.i2cRestart 0x50 .w) calm) = some (some (.busWait 0x50 .w)) := by decide
/-- WR-9. -/
theorem test_i2cWrite_range :
    see (fun t => t.refused) (held .w (.i2cWrite 0xFFFFFFFF 2) calm) = some (some .bufferRange) := by decide
/-- WR-2, the second byte. -/
theorem test_i2cWrite_nack :
    see (fun t => (t.i2c.af, t.i2c.role, t.wire))
      (inside (.txPhase 0x20000000 2 1)
        { held .w (.i2cWrite 0x20000000 2) { calm with tx := .answer .nack } with
          host := { (held .w (.i2cWrite 0x20000000 2) calm).host with mem := [(0x20000000, 0x10), (0x20000001, 0xAA)] } }) =
      some (true, .master .w, [.tx 0xAA .nack]) := by decide
/-- RD-1, the last byte: NACKed, stored, nothing else written. -/
theorem test_i2cRead_last :
    see (fun t => (t.host.mem, t.i2c.ack, t.i2c.rxTail, t.wire, t.host.status))
      (inside (.rxPhase 0x20000100 3 2) (held .r (.i2cRead 0x20000100 3) calm)) =
      some ([(0x20000102, 0x14)], false, false, [.rx 0x14 false], .done) := by decide
/-- RD-4: the acknowledge enable is set before the draw. -/
theorem test_i2cRead_arbLost :
    see (fun t => (t.i2c.arlo, t.i2c.role, t.i2c.busy, t.i2c.ack, t.wire))
      (inside (.rxPhase 0x20000100 2 0) (held .r (.i2cRead 0x20000100 2) { calm with rx := .fail .arbLost })) =
      some (true, .idle, true, true, [.fail .arbLost]) := by decide
/-- STOP-2: the extra byte goes on the wire and not to memory. -/
theorem test_i2cStop_extra :
    see (fun t => (t.wire, t.host.mem, t.i2c.rxTail, t.i2c.role))
      { held .r .i2cStop calm with i2c := { (held .r .i2cStop calm).i2c with rxTail := true } } =
      some ([.rx 0x7F false, .stop], [], false, .idle) := by decide
/-- STOP-3. -/
theorem test_i2cStop_idle :
    see (fun t => (t.host.res, t.refused, t.wire)) (s0 .i2cStop (turn calm)) = some (.ok, none, []) := by decide

/-- DEC-1: an undecodable word is refused when the host reaches it. -/
theorem test_invalidCommand :
    see (fun t => t.refused) (State.launch [0] [] params [turn calm]) = some (some .invalidCommand) := by decide

/-- The register words at reset of 10_state.md R51 to R54: RCC_CR but for its HSICAL byte, RCC_PLLCFGR, RCC_CFGR and the
AHB1 gate word. -/
theorem test_registers_at_reset :
    rccPllcfgr (s0 .getSysClk (turn calm)) = 0x24003010 ∧ rccCfgr (s0 .getSysClk (turn calm)) = 0 ∧
    registerAt (s0 .getSysClk (turn calm)) 0x40023830 = some 0x00100000 ∧
    registerAt (s0 .getSysClk (turn calm)) 0x40005420 = some 0x0002 := by decide
/-- RCC_CR after reset reads 0x0000_XX83 (10_state.md R51). -/
theorem test_rccCr_at_reset : rccCr (s0 .getSysClk (turn calm)) = (Config.hsical.setWidth 32 <<< 8) ||| 0x83#32 := by
  generalize hc : Config.hsical = c
  simp only [rccCr, hc]
  clear hc
  revert c
  decide

/-- A state inside an operation with these wire events, hung if `h` says so. -/
def onWire (wire : List WireEvent) (h : Option HangReason) (p : Position) (i : Instr) : State :=
  { held .w i calm with
    wire := wire
    host := { (held .w i calm).host with op := some p, hung := h } }

/-- A state in which the operations given have returned Ok, with the wire given. -/
def ranOn (x : Dir) (done : List Instr) (wire : List WireEvent) : State :=
  { held x .i2cStop calm with
    prog := done.map encode
    wire := wire
    host := { (held x .i2cStop calm).host with pc := done.length, status := .done } }

/-- START and SB (10_state.md R56, R60; 43_i2c_master.md R181): a stalled start generation leaves START set; a generated
start has cleared it and set SB. -/
theorem test_view_start :
    startBit (onWire [] (some .stall) (.busWait 0x68 .w) (.i2cStart 0x68 .w)) = some true ∧
    startBit (onWire [.start] none (.addrPhase false 0x68 .w) (.i2cStart 0x68 .w)) = some false ∧
    (transientFlags (onWire [.start] none (.addrPhase false 0x68 .w) (.i2cStart 0x68 .w))).sb = some true := by decide

/-- TxE after an acknowledged write address (10_state.md R60); vector WR-11, stalled at its second byte, never sees BTF
(43_i2c_master.md R186). -/
theorem test_view_transmit :
    (transientFlags (onWire [.start, .addr 0xD0 .ack] none (.txPhase 0 2 0) (.i2cWrite 0 2))).txe = some true ∧
    (transientFlags (onWire [.start, .addr 0xA0 .ack, .tx 0x10 .ack] (some .stall) (.txPhase 0x20000000 2 1)
      (.i2cWrite 0x20000000 2))).btf = some false := by decide

/-- After SendStopCondition every transient flag is 0 (10_state.md R63), and so is STOP after a sent stop, whatever ran
before (R56); vector STOP-5 sends nothing, and STOP is not stated. -/
theorem test_view_stop :
    transientFlags { held .w .i2cStop calm with wire := [.start, .addr 0xD0 .ack, .stop] } = clearFlags ∧
    stopBit (ranOn .w [.i2cStop, .i2cStart 0x68 .w, .i2cStop] [.start, .addr 0xD0 .ack, .stop]) = some false ∧
    transientFlags (ranOn .w [.i2cStop] [.start, .addr 0xA0 .ack, .tx 0 .ack, .fail .arbLost]) = clearFlags ∧
    stopBit (ranOn .w [.i2cStop] [.fail .arbLost]) = none := by decide

/-- Vector RD-6 leaves RxNE 0 (10_state.md R63), a received last byte BTF 0; after vector I2C-3, a failed first start, every
transient flag and I2C_DR are 0 (R59, R60), and TRA is 0; TRA is not stated in an Idle role after an address byte. -/
theorem test_view_rest :
    (transientFlags (ranOn .r [.i2cRead 0x20000100 0] [.repStart, .addr 0xD1 .ack])).rxne = some false ∧
    (transientFlags (ranOn .r [.i2cRead 0x20000100 1] [.repStart, .addr 0xD1 .ack, .rx 1 false])).btf = some false ∧
    transientFlags { si (.i2cStart 0x68 .w) calm with wire := [.fail .arbLost] } = clearFlags ∧
    drByte { si (.i2cStart 0x68 .w) calm with wire := [.fail .arbLost] } = some 0 ∧
    traBit { si (.i2cStart 0x68 .w) calm with wire := [.fail .arbLost] } = some false ∧
    traBit { si .i2cStop calm with wire := [.start, .addr 0xD0 .ack, .stop] } = none := by decide

/-- I2C_DR after RESTART W in a read transaction holds the address byte (10_state.md R59; 43_i2c_master.md R181 step 4);
after START R and STOP it is not stated, nor by a READ of 0 bytes after that; after a READ whose last byte was
acknowledged (vector RD-7) RESTART W leaves RxNE unstated; a read of 2 bytes that fails at byte 1 leaves BTF 0 (R60,
R184). -/
theorem test_view_dr :
    drByte (ranOn .w [.i2cStart 0x50 .r, .i2cRestart 0x50 .w] [.start, .addr 0xA1 .ack, .repStart, .addr 0xA0 .ack]) =
      some 0xA0 ∧
    drByte (ranOn .w [.i2cStart 0x50 .r, .i2cStop] [.start, .addr 0xA1 .ack, .stop]) = none ∧
    drByte (ranOn .w [.i2cStart 0x50 .r, .i2cStop, .i2cRead 0 0] [.start, .addr 0xA1 .ack, .stop]) = none ∧
    drByte (ranOn .w [.i2cStart 0x50 .r, .i2cRead 0 0, .i2cStop] [.start, .addr 0xA1 .ack, .stop]) = none ∧
    (transientFlags (ranOn .w [.i2cStart 0x50 .r, .i2cRead 0 1, .i2cRestart 0x50 .w]
      [.start, .addr 0xA1 .ack, .rx 5 true, .repStart, .addr 0xA0 .ack])).rxne = none ∧
    (transientFlags { ranOn .r [.i2cStart 0x50 .r] [.start, .addr 0xA1 .ack, .rx 5 true, .fail .arbLost] with
      prog := [encode (.i2cStart 0x50 .r), encode (.i2cRead 0 2)]
      host := { (ranOn .r [.i2cStart 0x50 .r] []).host with status := .halted .failed } }).btf = some false := by decide

/-- D_EEPROM(0) answers at 0x50 and not at 0x54, and a written byte wraps in its page (95_test_vectors.md 3.1). -/
theorem test_eeprom :
    Eeprom.addressed 0 0x50 = true ∧ Eeprom.addressed 0 0x54 = false ∧ Eeprom.addressed 1 0x54 = true ∧
    pageNext 0x01F = 0x010 ∧ wireAddress [.start, .addr 0xA0 .ack, .repStart, .addr 0xD1 .ack] = some 0x68 := by decide

/-- Vector STOP-2: the extra byte of a Stop is a read phase of its transaction, drawn as the u8 (43_i2c_master.md R177). -/
theorem test_extra_phase :
    (held .r .i2cStop calm).nextPhase = none ∧
    ({ held .r .i2cStop calm with i2c := { (held .r .i2cStop calm).i2c with rxTail := true } }).nextPhase = some .read ∧
    (PhaseAnswer.data 0x7F).agrees
      { held .r .i2cStop calm with i2c := { (held .r .i2cStop calm).i2c with rxTail := true } } = true := by decide

/-- The assembler lines of 30_encoding.md R110. -/
theorem test_asm :
    asm (.clkState 1 1) = "RCC.CLKSTATE HSE, ON" ∧ asm (.pllCfg 8 180 0 1 2 2 false) =
      "RCC.PLLCFG m=8, n=180, p=0, q=2, r=2, src=HSE" ∧ asm (.periphEn 3 21) = "RCC.PERIPH_EN APB1, 21" := by decide

/-! ### Witnesses: for each statement that has hypotheses, values that meet them, clause by clause, at the ends of the
ranges -/

/-- A state whose host runs `i` under the choices `cs`. -/
def running (i : Instr) (cs : List Choice) : State := { si i calm with env := { script := cs, turn := 0 } }

/-- HSE on and polled k times, with a script. -/
def polling (k : Nat) (cs : List Choice) : State := (inside (.clkPoll .hse k) (running (.clkState 1 1) cs)).setOn .hse true

theorem witness_DecodeOfEncode :
    (Instr.periphEn 7 255).WellFormed ∧ (Instr.delayUs 4294967295).WellFormed ∧
    (Instr.i2cRead 4294967295 65535).WellFormed := by decide

theorem witness_EncodeOfDecode : ∃ i, decode 0x0203FFFFFFFF0002 = .ok i := ⟨.i2cWrite 0xFFFFFFFF 2, by decide⟩

theorem witness_DecodesExactlyByRow :
    (State.launch [0x0109000000000000] [] params [turn calm]).choice.move = none ∧
    (State.launch [0x0109000000000000] [] params [turn calm]).hostRuns = true ∧
    (State.launch [0x0109000000000000] [] params [turn calm]).fetch = some 0x0109000000000000 ∧
    (∀ r ∈ opcodeTable, (0x0109000000000000 : Command) &&& r.mask ≠ r.mtch) ∧
    (s0 (.clkState 5 3) (turn calm)).host.op = none ∧ 255 < 2 ^ 8 := by decide

theorem witness_ReservedFieldValuesReturnErrors :
    (s0 .getSysClk (turn calm)).host.op = none ∧ 5 ≤ (5 : BitVec 3).toNat ∧ 5 ≤ (7 : BitVec 3).toNat ∧
    (4 : BitVec 3).toNat ≤ 4 ∧ 2 ≤ (2 : BitVec 2).toNat ∧ 2 ≤ (3 : BitVec 2).toNat ∧
    anyPllLive (s0 .getSysClk (turn calm)) = false ∧ busOfCode 4 = some .apb2 ∧ legalBit params .apb2 24 = false ∧
    busOfCode 0 = some .ahb1 ∧ legalBit params .ahb1 31 = false ∧ 255 < 2 ^ 8 ∧
    (16 : Byte) ∉ params.ahbPrescLegal ∧ (8 : Byte) ∉ params.apb1PrescLegal ∧
    (255 : Byte) ∉ params.apb2PrescLegal := by decide

theorem witness_ResetValues : s0 .getSysClk (turn calm) = State.launch [encode .getSysClk] [] params [turn calm] := rfl

theorem witness_StepRunsDecodedInstruction :
    (s0 .getSysClk (turn calm)).choice.move = none ∧ (s0 .getSysClk (turn calm)).host.status = .running ∧
    (s0 .getSysClk (turn calm)).refused = none ∧ (s0 .getSysClk (turn calm)).host.hung = none ∧
    (s0 .getSysClk (turn calm)).prog[(s0 .getSysClk (turn calm)).host.pc]? = some 0x0103000000000000 ∧
    decode 0x0103000000000000 = .ok .getSysClk := by decide

/-- Both ways of the host rule: an operation that returns Ok and one that does not. -/
theorem witness_HostRule_returns :
    (∃ t, exec .getSysClk (s0 .getSysClk (turn calm)) = .next t ∧ t.refused = none ∧ t.host.hung = none ∧
      t.host.op = none) ∧
    (∃ t, exec (.ahbPre 16) (s0 (.ahbPre 16) (turn calm)) = .next t ∧ t.refused = none ∧ t.host.hung = none ∧
      t.host.op = none) := ⟨⟨_, rfl, rfl, rfl, rfl⟩, ⟨_, rfl, rfl, rfl, rfl⟩⟩

theorem witness_HostRule_starts :
    (s0 .getSysClk (turn calm)).choice.move = none ∧ (s0 .getSysClk (turn calm)).host.status = .running ∧
    (s0 .getSysClk (turn calm)).host.op = none ∧ (s0 .getSysClk (turn calm)).refused = none ∧
    (s0 .getSysClk (turn calm)).host.hung = none ∧ (s0 .getSysClk (turn calm)).current = some .getSysClk := by decide

theorem witness_HostRule_stopped :
    (State.launch [] [] params [turn calm]).choice.move = none ∧
    (State.launch [] [] params [turn calm]).host.status ≠ .running := by decide

/-- The highest byte of host memory, at a position of a write. -/
theorem witness_ResultTable :
    (inside (.txPhase 0xFFFFFFFF 1 0) (held .w (.i2cWrite 0xFFFFFFFF 1) calm)).refused = none ∧
    (inside (.txPhase 0xFFFFFFFF 1 0) (held .w (.i2cWrite 0xFFFFFFFF 1) calm)).host.hung = none ∧
    (∀ b n k, ((inside (.txPhase 0xFFFFFFFF 1 0) (held .w (.i2cWrite 0xFFFFFFFF 1) calm)).host.op = some (.txPhase b n k) ∨
      (inside (.txPhase 0xFFFFFFFF 1 0) (held .w (.i2cWrite 0xFFFFFFFF 1) calm)).host.op = some (.rxPhase b n k)) →
      b + k < 2 ^ 32) := by
  refine ⟨rfl, rfl, fun b n k h => ?_⟩
  rcases h with h | h <;> cases h
  decide

/-- The ends the table lists, each reached: a refusal, a hang, a result. -/
theorem witness_ResultTable_ends :
    see (fun t => t.refused) (held .r (.i2cWrite 0 0) calm) = some (some .directionMismatch) ∧
    see (fun t => t.host.hung) (si (.i2cWrite 0 1) calm) = some (some .noTransaction) ∧
    see (fun t => (t.host.op, t.host.res)) (si (.i2cWrite 0 0) calm) = some (none, .ok) := by decide

theorem witness_RefusalIsForGood :
    (∃ t, step ((s0 .getSysClk (turn calm)).raise .delayRange) = .next t) ∧
    ((s0 .getSysClk (turn calm)).raise .delayRange).refused = some .delayRange ∧
    ((s0 .getSysClk (turn calm)).raise .delayRange).refused ≠ none := ⟨⟨_, rfl⟩, rfl, by decide⟩

theorem witness_StoppedHostNeverMoves :
    ((s0 .getSysClk (turn calm)).raise .delayRange).refused ≠ none ∧
    ((s0 .getSysClk (turn calm)).hang .stall).host.hung ≠ none ∧
    (State.launch [] [] params []).host.status ≠ .running := by decide

theorem witness_EnvironmentStepsRun :
    (running .getSysClk [moved (.readyFalls .hse), moved (.busChange true), turn calm]).env.script =
      [(Move.readyFalls .hse, calm), (Move.busChange true, calm)].map (fun p => { move := some p.1, draw := p.2 }) ++
        [turn calm] := by decide

theorem witness_ReadyRises :
    (polling 0 [moved (.readyRises .hse)]).choice.move = some (.readyRises .hse) ∧
    (polling 0 [moved (.readyRises .hse)]).rcc.on.get .hse = true ∧
    (polling 0 [moved (.readyRises .hse)]).rcc.rdy.get .hse = false := by decide

theorem witness_ReadyFallsAndSwitch_falls :
    (∃ s : State, s.choice.move = some (.readyFalls .hse) ∧ s.rcc.on.get .hse = false ∧ s.rcc.rdy.get .hse = true) ∧
    (∃ s : State, s.choice.move = some (.readyFalls .hsi) ∧ s.rcc.on.get .hsi = true) ∧
    (∃ s : State, s.choice.move = some (.readyFalls .hse) ∧ s.rcc.on.get .hse = false ∧ s.rcc.rdy.get .hse = false) :=
  ⟨⟨(running .getSysClk [moved (.readyFalls .hse)]).setRdy .hse true, by decide⟩,
    ⟨running .getSysClk [moved (.readyFalls .hsi)], by decide⟩, ⟨running .getSysClk [moved (.readyFalls .hse)], by decide⟩⟩

/-- SETSYSCLK HSE has run; HSE on and ready, then on and not ready, then off with its flag still set. -/
def pendingSwitch (on rdy : Bool) : State :=
  (({ running .getSysClk [moved .switchSysclk] with
      rcc := { (running .getSysClk []).rcc with sw := .hse } } : State).setOn .hse on).setRdy .hse rdy

theorem witness_ReadyFallsAndSwitch_switch :
    (∃ s : State, s.choice.move = some .switchSysclk ∧ s.rcc.sws ≠ s.rcc.sw ∧ s.rcc.on.get (srcOf s.rcc.sw) = true ∧
      s.rcc.rdy.get (srcOf s.rcc.sw) = true) ∧
    (∃ s : State, s.choice.move = some .switchSysclk ∧ s.rcc.rdy.get (srcOf s.rcc.sw) = false) ∧
    (∃ s : State, s.choice.move = some .switchSysclk ∧ s.rcc.on.get (srcOf s.rcc.sw) = false) ∧
    (∃ s : State, s.choice.move = some .switchSysclk ∧ s.rcc.sws = s.rcc.sw) :=
  ⟨⟨pendingSwitch true true, by decide⟩, ⟨pendingSwitch true false, by decide⟩, ⟨pendingSwitch false true, by decide⟩,
    ⟨running .getSysClk [moved .switchSysclk], by decide⟩⟩

theorem witness_OtherMasters :
    (∃ s : State, s.choice.move = some (.busChange true) ∧ s.i2c.role = .idle) ∧
    (∃ s : State, s.choice.move = some (.busChange false) ∧ s.i2c.role ≠ .idle ∧ ∃ t, step s = .next t) ∧
    (∃ s : State, s.host.op = some (.busWait 0x68 .w) ∧ s.i2c.busy = true) :=
  ⟨⟨running .getSysClk [moved (.busChange true)], by decide⟩,
    ⟨{ held .w .getSysClk calm with env := { script := [moved (.busChange false)], turn := 0 } }, by decide, by decide,
      _, rfl⟩,
    ⟨inside (.busWait 0x68 .w) (held .w (.i2cStart 0x68 .w) calm), by decide⟩⟩

theorem witness_StatusChangesOnlyByEnvironment :
    (see (fun t => t.rcc.sws) (pendingSwitch true true) = some .hse ∧ (pendingSwitch true true).rcc.sws = .hsi) ∧
    (see (fun t => t.rcc.rdy.hse) (polling 0 [moved (.readyRises .hse)]) = some true ∧
      (polling 0 [moved (.readyRises .hse)]).rcc.rdy.hse = false) ∧
    (see (fun t => t.rcc.rdy.hse) ((running .getSysClk [moved (.readyFalls .hse)]).setRdy .hse true) = some false) := by
  decide

theorem witness_WireGrowsAndProgramStays :
    ∃ t, step (inside (.txPhase 0 1 0) (held .w (.i2cWrite 0 1) calm)) = .next t ∧ t.wire = [.tx 0 .ack] :=
  ⟨_, rfl, by decide⟩

/-- Every field has an operation other than its own writer, and its own writer, that answer a next state. -/
theorem witness_FieldWriters :
    (∃ t, exec (.setSysClk .hse) (s0 (.setSysClk .hse) (turn calm)) = .next t) ∧
    (opOf (.setSysClk .hse) ≠ .clkState ∧ opOf (.setSysClk .hse) ≠ .pllCfg ∧ opOf (.setSysClk .hse) ≠ .getSysClk ∧
      opOf (.setSysClk .hse) ≠ .ahbPre ∧ opOf (.setSysClk .hse) ≠ .apb1Pre ∧ opOf (.setSysClk .hse) ≠ .apb2Pre ∧
      opOf (.setSysClk .hse) ≠ .periphEn ∧ opOf (.setSysClk .hse) ≠ .periphDis ∧ opOf (.setSysClk .hse) ≠ .i2cInit ∧
      opOf (.setSysClk .hse) ≠ .i2cRead) ∧
    (∃ t, exec .getSysClk (s0 .getSysClk (turn calm)) = .next t) ∧ opOf .getSysClk ≠ .setSysClk :=
  ⟨⟨_, rfl⟩, by decide, ⟨_, rfl⟩, by decide⟩

theorem witness_RccFrame :
    (∃ t, exec (.clkState 1 1) (s0 (.clkState 1 1) (turn calm)) = .next t) ∧ onI2c (opOf (.clkState 1 1)) = false ∧
    srcOfCode 1 ≠ some .hsi ∧ ∀ k, (s0 (.clkState 1 1) (turn calm)).host.op ≠ some (.clkPoll .hsi k) :=
  ⟨⟨_, rfl⟩, by decide, by decide, nofun⟩

theorem witness_GateFrame :
    (∃ t, exec (.periphEn 1 0) (s0 (.periphEn 1 0) (turn calm)) = .next t) ∧
    (∃ t, exec (.periphDis 1 0) (s0 (.periphDis 1 0) (turn calm)) = .next t) ∧ busOfCode 1 ≠ some .apb2 ∧ 7 ≠ 0 :=
  ⟨⟨_, rfl⟩, ⟨_, rfl⟩, by decide, by decide⟩

theorem witness_I2cFrame :
    (∃ t, exec (.i2cRead 4 1) (inside (.rxPhase 4 1 0) (held .r (.i2cRead 4 1) calm)) = .next t ∧
      t.host.mem = [(4, 0x14)]) ∧
    onI2c (opOf (.i2cRead 4 1)) = true ∧ onI2c (opOf (.i2cStart 4 .w)) = true ∧ opOf (.i2cStart 4 .w) ≠ .i2cRead ∧
    opOf (.i2cStart 4 .w) ≠ .i2cStop ∧ (held .r (.i2cRead 4 1) calm).host.mem.wf :=
  ⟨⟨_, rfl, by decide⟩, by decide, by decide, by decide, by decide, by decide⟩

theorem witness_StickyErrorFlags :
    (∃ t, step ((held .w .i2cStop calm).applyFail .nack) = .next t) ∧ ((held .w .i2cStop calm).applyFail .nack).i2c.af = true ∧
    ((held .w .i2cStop calm).applyFail .arbLost).i2c.arlo = true ∧
    ((held .w .i2cStop calm).applyFail .busError).i2c.berr = true := ⟨⟨_, rfl⟩, by decide, by decide, by decide⟩

theorem witness_MemoryReadAfterWrite :
    Memory.wf [] ∧ Memory.wf [(0, 1), (4294967295, 255)] ∧ 4294967295 < 2 ^ 32 ∧ 2 ^ 32 ≤ 4294967296 := by decide

/-- CLK-2, CLK-4, CLK-5, CLK-6, CLK-1: the five branches of the first step. -/
theorem witness_SetClockState_first :
    (s0 (.clkState 1 0) (turn calm)).host.op = none ∧ 4 < (5 : BitVec 3).toNat ∧ srcOfCode 0 = some .hsi ∧
    srcOfCode 4 = some .pllsai ∧ 1 < (2 : BitVec 2).toNat ∧ inUse (s0 (.clkState 0 0) (turn calm)) .hsi = true ∧
    inUse (s0 (.clkState 4 0) (turn calm)) .pllsai = false := by decide

/-- The polls: flag set, the last with the flag clear, one before the last. -/
theorem witness_SetClockState_poll :
    (∃ s : State, s.host.op = some (.clkPoll .hse 2) ∧ s.rcc.rdy.get .hse = true) ∧
    (∃ s : State, s.host.op = some (.clkPoll .hse 2) ∧ s.rcc.rdy.get .hse = false ∧ 2 + 1 = s.params.ceil) ∧
    (∃ s : State, s.host.op = some (.clkPoll .hse 1) ∧ s.rcc.rdy.get .hse = false ∧ 1 + 1 < s.params.ceil) :=
  ⟨⟨(polling 2 []).setRdy .hse true, by decide⟩, ⟨polling 2 [], by decide⟩, ⟨polling 1 [], by decide⟩⟩

theorem witness_ClockEnableMachine :
    (∃ s : State, srcOfCode 1 = some .hse ∧ s.host.op = none ∧ inUse s .hse = false) ∧
    (∃ s : State, s.rcc.clk.get .hse = .enabling ∧ s.host.op = some (.clkPoll .hse 0) ∧ s.rcc.rdy.get .hse = true) ∧
    (∃ s : State, s.rcc.clk.get .hse = .enabling ∧ s.host.op = some (.clkPoll .hse 2) ∧ s.rcc.rdy.get .hse = false ∧
      2 + 1 = s.params.ceil) ∧
    (∃ s : State, s.rcc.clk.get .hse = .enabling ∧ s.host.op = some (.clkPoll .hse 1) ∧ s.rcc.rdy.get .hse = false ∧
      1 + 1 < s.params.ceil) :=
  ⟨⟨s0 (.clkState 1 0) (turn calm), by decide⟩,
    ⟨((polling 0 []).setClk .hse .enabling).setRdy .hse true, by decide⟩,
    ⟨(polling 2 []).setClk .hse .enabling, by decide⟩, ⟨(polling 1 []).setClk .hse .enabling, by decide⟩⟩

/-- Three polls and a move between them, at the ceiling 3; two polls, below it. -/
theorem witness_TimeoutAfterExactlyCeilingPolls :
    (∃ (s : State) (cs : List Choice), s.current = some (.clkState 1 1) ∧ s.host.status = .running ∧ s.refused = none ∧
      s.host.hung = none ∧ s.host.op = some (.clkPoll .hse 0) ∧ s.rcc.on.get .hse = true ∧
      s.rcc.rdy.get .hse = false ∧ 1 ≤ s.params.ceil ∧ s.env.script = cs ++ [] ∧
      (∀ c ∈ cs, c.move ≠ some (.readyRises .hse)) ∧ (cs.filter (fun c => c.move.isNone)).length = s.params.ceil) ∧
    (∃ (s : State) (cs : List Choice), s.current = some (.clkState 1 1) ∧ s.host.status = .running ∧ s.refused = none ∧
      s.host.hung = none ∧ s.host.op = some (.clkPoll .hse 0) ∧ s.rcc.on.get .hse = true ∧
      s.rcc.rdy.get .hse = false ∧ 1 ≤ s.params.ceil ∧ s.env.script = cs ++ [] ∧
      (∀ c ∈ cs, c.move ≠ some (.readyRises .hse)) ∧ (cs.filter (fun c => c.move.isNone)).length + 1 = s.params.ceil) :=
  ⟨⟨polling 0 [turn calm, moved (.readyRises .pll), turn calm, turn calm],
      [turn calm, moved (.readyRises .pll), turn calm, turn calm], by decide⟩,
    ⟨polling 0 [turn calm, turn calm], [turn calm, turn calm], by decide⟩⟩

/-- The flag rises before the last of three polls (W1d). -/
theorem witness_ReadyEndsThePolls :
    ∃ (s : State) (polls : List Choice), s.current = some (.clkState 1 1) ∧ s.host.status = .running ∧
      s.refused = none ∧ s.host.hung = none ∧ s.host.op = some (.clkPoll .hse 0) ∧ s.rcc.on.get .hse = true ∧
      s.rcc.rdy.get .hse = false ∧ (∀ c ∈ polls, c.move = none) ∧ polls.length + 1 = s.params.ceil ∧
      s.env.script = polls ++
        ({ move := some (.readyRises .hse), draw := calm } :: { move := none, draw := calm } :: []) :=
  ⟨polling 0 [turn calm, turn calm, moved (.readyRises .hse), turn calm], [turn calm, turn calm], by decide⟩

theorem witness_SetPllConfig :
    (∃ x ∈ [Src.pll, Src.plli2s, Src.pllsai], ((s0 .getSysClk (turn calm)).setRdy .pllsai true).rcc.on.get x = true ∨
      ((s0 .getSysClk (turn calm)).setRdy .pllsai true).rcc.rdy.get x = true) ∧
    (∀ x ∈ [Src.pll, Src.plli2s, Src.pllsai], (s0 .getSysClk (turn calm)).rcc.on.get x = false ∧
      (s0 .getSysClk (turn calm)).rcc.rdy.get x = false) := by decide

theorem witness_SourceInUse :
    (s0 .getSysClk (turn calm)).rcc.pll.src = 0 ∧
    ((s0 .getSysClk (turn calm)).setPllSrc 1).rcc.pll.src = 1 := by decide

theorem witness_SetBusPrescaler :
    (15 : Byte) ∈ params.ahbPrescLegal ∧ (16 : Byte) ∉ params.ahbPrescLegal ∧ (7 : Byte) ∈ params.apb1PrescLegal ∧
    (8 : Byte) ∉ params.apb1PrescLegal ∧ (4 : Byte) ∈ params.apb2PrescLegal ∧ (3 : Byte) ∉ params.apb2PrescLegal ∧
    params.wf ∧ 15 < (16 : Byte).toNat ∧ 7 < (8 : Byte).toNat := by decide

theorem witness_EnablePeripheral :
    4 < (5 : BitVec 3).toNat ∧ busOfCode 4 = some .apb2 ∧ legalBit params .apb2 24 = false ∧
    legalBit params .apb2 23 = true ∧ (((s0 .getSysClk (turn calm)).setEnr .apb2 0x00800000).rcc.enr.get .apb2).getLsbD 23 = true := by
  decide

/-- Legal and illegal bit, the gate of the instance in use with and without a transaction, another gate. -/
theorem witness_DisablePeripheral :
    4 < (6 : BitVec 3).toNat ∧ busOfCode 3 = some .apb1 ∧ legalBit params .apb1 30 = false ∧
    legalBit params .apb1 21 = true ∧ 21 = 20 + instNumber params.i2cInst ∧ (held .w .getSysClk calm).i2c.role ≠ .idle ∧
    (si .getSysClk calm).i2c.role = .idle ∧ 22 ≠ 20 + instNumber params.i2cInst ∧ legalBit params .apb1 22 = true ∧
    ((held .w .getSysClk calm).rcc.enr.get .apb1).getLsbD 22 = false := by decide

theorem witness_GateBitArithmetic : 31 ≤ 31 ∧ params.wf ∧ legalBit params .ahb1 30 = true := by decide

theorem witness_Delays :
    1 ≤ 1000 ∧ 1000 ≤ (s0 .getSysClk (turn calm)).params.delayMaxMs ∧
    (s0 .getSysClk (turn calm)).params.delayMaxMs < 1001 ∧ 1000 ≤ (s0 .getSysClk (turn calm)).params.delayMaxUs ∧
    (s0 .getSysClk (turn calm)).params.delayMaxUs < 1001 := by decide

/-- Clock off; clock on and not initialised; both. -/
theorem witness_AdmissionGuard :
    (∃ s : State, s.host.op = none ∧ guarded (opOf (.i2cStart 0x68 .w)) = true ∧ i2cClk s = false) ∧
    (∃ s : State, s.host.op = none ∧ guarded (opOf (.i2cWrite 0 0)) = true ∧ i2cClk s = true ∧ s.i2c.inited = false) ∧
    (∃ s : State, s.host.op = none ∧ guarded (opOf (.i2cRead 0 0)) = true ∧ i2cClk s = true ∧ s.i2c.inited = true ∧
      s.refused = none ∧ s.i2c.role = .idle) :=
  ⟨⟨s0 (.i2cStart 0x68 .w) (turn calm), by decide⟩,
    ⟨(s0 (.i2cWrite 0 0) (turn calm)).setEnr .apb1 0x00200000, by decide⟩, ⟨si (.i2cRead 0 0) calm, by decide⟩⟩

theorem witness_Initialize :
    (∃ s : State, i2cClk s = false) ∧ (∃ s : State, i2cClk s = true ∧ s.i2c.role ≠ .idle) ∧
    (∃ s : State, i2cClk s = true ∧ s.i2c.role = .idle) :=
  ⟨⟨s0 (.i2cInit 16 0 0) (turn calm), by decide⟩, ⟨held .w (.i2cInit 16 0 0) calm, by decide⟩,
    ⟨si (.i2cInit 16 0 0) calm, by decide⟩⟩

/-- An error flag set, with the draw both ways. -/
theorem witness_StartFirstStep :
    (∃ s : State, s.host.op = none ∧ i2cClk s = true ∧ s.i2c.inited = true ∧ (errPending s && s.draw.stale) = true) ∧
    (∃ s : State, s.host.op = none ∧ i2cClk s = true ∧ s.i2c.inited = true ∧ errPending s = true ∧
      (errPending s && s.draw.stale) = false) :=
  ⟨⟨(si (.i2cStart 0x68 .w) { calm with stale := true }).applyFail .nack, by decide⟩,
    ⟨(si (.i2cStart 0x68 .w) calm).applyFail .nack, by decide⟩⟩

/-- A start position with the bus busy, and with each of the three draws on a free bus. -/
theorem witness_StartGeneration :
    (∃ s : State, s.host.op = some (.busWait 0x68 .w) ∧ s.i2c.busy = true) ∧
    (∃ s : State, s.host.op = some (.busWait 0x68 .w) ∧ s.i2c.busy = false ∧ s.draw.start = .stall) ∧
    (∃ s : State, s.host.op = some (.busWait 0x68 .w) ∧ s.i2c.busy = false ∧ s.draw.start = .fail .arbLost) ∧
    (∃ s : State, s.host.op = some (.busWait 0x68 .w) ∧ s.i2c.busy = false ∧ s.draw.start = .ok) ∧
    (∃ s : State, s.host.op = some (.repStart 0x50 .r) ∧ s.draw.start = .stall) ∧
    (∃ s : State, s.host.op = some (.repStart 0x50 .r) ∧ s.draw.start = .fail .busError) ∧
    (∃ s : State, s.host.op = some (.repStart 0x50 .r) ∧ s.draw.start = .ok) :=
  ⟨⟨inside (.busWait 0x68 .w) (held .w (.i2cStart 0x68 .w) calm), by decide⟩,
    ⟨inside (.busWait 0x68 .w) (si (.i2cStart 0x68 .w) { calm with start := .stall }), by decide⟩,
    ⟨inside (.busWait 0x68 .w) (si (.i2cStart 0x68 .w) { calm with start := .fail .arbLost }), by decide⟩,
    ⟨inside (.busWait 0x68 .w) (si (.i2cStart 0x68 .w) calm), by decide⟩,
    ⟨inside (.repStart 0x50 .r) (held .w (.i2cRestart 0x50 .r) { calm with start := .stall }), by decide⟩,
    ⟨inside (.repStart 0x50 .r) (held .w (.i2cRestart 0x50 .r) { calm with start := .fail .busError }), by decide⟩,
    ⟨inside (.repStart 0x50 .r) (held .w (.i2cRestart 0x50 .r) calm), by decide⟩⟩

theorem witness_AddressPhaseByte :
    (∃ s : State, s.host.op = some (.addrPhase false 0x68 .w) ∧ s.draw.tx = .answer .ack) ∧
    (∃ s : State, s.host.op = some (.addrPhase true 0x7F .r) ∧ s.draw.tx = .answer .nack ∧
      failureOfResp .nack = some .nack) ∧
    (∃ s : State, s.host.op = some (.addrPhase false 0x68 .w) ∧ s.draw.tx = .stall) :=
  ⟨⟨inside (.addrPhase false 0x68 .w) (held .w (.i2cStart 0x68 .w) calm), by decide⟩,
    ⟨inside (.addrPhase true 0x7F .r) (held .r (.i2cRestart 0x7F .r) { calm with tx := .answer .nack }), by decide⟩,
    ⟨inside (.addrPhase false 0x68 .w) (held .w (.i2cStart 0x68 .w) { calm with tx := .stall }), by decide⟩⟩

theorem witness_FailureUpdates :
    (held .w .getSysClk calm).draw.dropRole = false ∧
    (held .w .getSysClk { calm with dropRole := true }).draw.dropRole = true := by decide

/-- A pending error, the draw true: the operation answers a next state that is not refused. -/
theorem witness_ErrorPendingCheck :
    (∃ s t : State, s.host.op = none ∧ i2cClk s = true ∧ s.i2c.inited = true ∧ s.refused = none ∧
      guarded (opOf (.i2cStart 0x68 .w)) = true ∧ errPending s = true ∧ s.draw.stale = true ∧
      exec (.i2cStart 0x68 .w) s = .next t ∧ t.refused = none) ∧
    (∃ s t : State, s.host.op = none ∧ i2cClk s = true ∧ s.i2c.inited = true ∧ s.refused = none ∧
      guarded (opOf (.i2cWrite 0 0)) = true ∧ errPending s = true ∧ s.draw.stale = false ∧
      exec (.i2cWrite 0 0) s = .next t ∧ t.refused = none) ∧
    (∃ s : State, i2cClk s = true ∧ s.i2c.role = .idle) :=
  ⟨⟨(si (.i2cStart 0x68 .w) { calm with stale := true }).applyFail .nack, _, by decide, by decide, by decide, by decide,
      by decide, by decide, by decide, rfl, by decide⟩,
    ⟨(si (.i2cWrite 0 0) calm).applyFail .nack, _, by decide, by decide, by decide, by decide, by decide, by decide,
      by decide, rfl, by decide⟩,
    ⟨si (.i2cInit 0 0 0) calm, by decide⟩⟩

/-- WR-9 and WR-10 meet at the end of host memory; then the direction, the length 0, no transaction, and the transfer. -/
theorem witness_TransferFirstStep :
    (∃ s : State, s.host.op = none ∧ i2cClk s = true ∧ s.i2c.inited = true ∧ 2 ^ 32 < 0xFFFFFFFF + 2) ∧
    (∃ s : State, s.host.op = none ∧ i2cClk s = true ∧ s.i2c.inited = true ∧ 0xFFFFFFFF + 1 ≤ 2 ^ 32 ∧
      s.i2c.role = .master .r) ∧
    (∃ s : State, s.host.op = none ∧ i2cClk s = true ∧ s.i2c.inited = true ∧ 0xFFFFFFFF + 1 ≤ 2 ^ 32 ∧
      s.i2c.role ≠ .master .r ∧ (errPending s && s.draw.stale) = true) ∧
    (∃ s : State, s.host.op = none ∧ i2cClk s = true ∧ s.i2c.inited = true ∧ 0xFFFFFFFF + 1 ≤ 2 ^ 32 ∧
      s.i2c.role ≠ .master .r ∧ (errPending s && s.draw.stale) = false ∧ 0 < 1 ∧ s.i2c.role ≠ .idle) ∧
    (∃ s : State, s.host.op = none ∧ i2cClk s = true ∧ s.i2c.inited = true ∧ 0xFFFFFFFF + 1 ≤ 2 ^ 32 ∧
      s.i2c.role ≠ .master .w ∧ (errPending s && s.draw.stale) = false ∧ 0 < 1 ∧ s.i2c.role = .idle) :=
  ⟨⟨held .w (.i2cWrite 0xFFFFFFFF 2) calm, by decide⟩, ⟨held .r (.i2cWrite 0xFFFFFFFF 1) calm, by decide⟩,
    ⟨(held .w (.i2cWrite 0xFFFFFFFF 1) { calm with stale := true }).applyFail .nack, by decide⟩,
    ⟨held .w (.i2cWrite 0xFFFFFFFF 1) calm, by decide⟩, ⟨si (.i2cRead 0xFFFFFFFF 1) calm, by decide⟩⟩

theorem witness_WriteByteStep :
    (∃ s : State, s.host.op = some (.txPhase 0xFFFFFFFE 2 0) ∧ 0 < 2 ∧ 0xFFFFFFFE + 2 ≤ 2 ^ 32 ∧
      s.draw.tx = .answer .ack ∧ 0 + 1 < 2) ∧
    (∃ s : State, s.host.op = some (.txPhase 0xFFFFFFFE 2 1) ∧ 1 < 2 ∧ 0xFFFFFFFE + 2 ≤ 2 ^ 32 ∧
      s.draw.tx = .answer .ack ∧ 1 + 1 = 2) ∧
    (∃ s : State, s.host.op = some (.txPhase 0xFFFFFFFE 2 1) ∧ 1 < 2 ∧ 0xFFFFFFFE + 2 ≤ 2 ^ 32 ∧
      s.draw.tx = .answer .busError ∧ failureOfResp .busError = some .busError) ∧
    (∃ s : State, s.host.op = some (.txPhase 0xFFFFFFFE 2 1) ∧ 1 < 2 ∧ 0xFFFFFFFE + 2 ≤ 2 ^ 32 ∧
      s.draw.tx = .stall) :=
  ⟨⟨inside (.txPhase 0xFFFFFFFE 2 0) (held .w (.i2cWrite 0xFFFFFFFE 2) calm), by decide⟩,
    ⟨inside (.txPhase 0xFFFFFFFE 2 1) (held .w (.i2cWrite 0xFFFFFFFE 2) calm), by decide⟩,
    ⟨inside (.txPhase 0xFFFFFFFE 2 1) (held .w (.i2cWrite 0xFFFFFFFE 2) { calm with tx := .answer .busError }),
      by decide⟩,
    ⟨inside (.txPhase 0xFFFFFFFE 2 1) (held .w (.i2cWrite 0xFFFFFFFE 2) { calm with tx := .stall }), by decide⟩⟩

theorem witness_ReadByteStep :
    (∃ s : State, s.host.op = some (.rxPhase 0xFFFFFFFE 2 0) ∧ 0 < 2 ∧ 0xFFFFFFFE + 2 ≤ 2 ^ 32 ∧ s.host.mem.wf ∧
      s.draw.rx = .data 0x14 ∧ 0 + 1 < 2) ∧
    (∃ s : State, s.host.op = some (.rxPhase 0xFFFFFFFE 2 1) ∧ 1 < 2 ∧ 0xFFFFFFFE + 2 ≤ 2 ^ 32 ∧ s.host.mem.wf ∧
      s.draw.rx = .data 0x14 ∧ 1 + 1 = 2) ∧
    (∃ s : State, s.host.op = some (.rxPhase 0xFFFFFFFE 2 1) ∧ 1 < 2 ∧ 0xFFFFFFFE + 2 ≤ 2 ^ 32 ∧ s.host.mem.wf ∧
      s.draw.rx = .fail .arbLost) ∧
    (∃ s : State, s.host.op = some (.rxPhase 0xFFFFFFFE 2 1) ∧ 1 < 2 ∧ 0xFFFFFFFE + 2 ≤ 2 ^ 32 ∧ s.host.mem.wf ∧
      s.draw.rx = .stall) :=
  ⟨⟨inside (.rxPhase 0xFFFFFFFE 2 0) (held .r (.i2cRead 0xFFFFFFFE 2) calm), by decide⟩,
    ⟨inside (.rxPhase 0xFFFFFFFE 2 1) (held .r (.i2cRead 0xFFFFFFFE 2) calm), by decide⟩,
    ⟨inside (.rxPhase 0xFFFFFFFE 2 1) (held .r (.i2cRead 0xFFFFFFFE 2) { calm with rx := .fail .arbLost }), by decide⟩,
    ⟨inside (.rxPhase 0xFFFFFFFE 2 1) (held .r (.i2cRead 0xFFFFFFFE 2) { calm with rx := .stall }), by decide⟩⟩

/-- Clock off; not initialised; Idle; a transaction open. -/
theorem witness_SendStop :
    (∃ s : State, i2cClk s = false) ∧ (∃ s : State, i2cClk s = true ∧ s.i2c.inited = false) ∧
    (∃ s : State, i2cClk s = true ∧ s.i2c.inited = true ∧ s.i2c.role = .idle) ∧
    (∃ s : State, i2cClk s = true ∧ s.i2c.inited = true ∧ s.i2c.role ≠ .idle) :=
  ⟨⟨s0 .i2cStop (turn calm), by decide⟩, ⟨(s0 .i2cStop (turn calm)).setEnr .apb1 0x00200000, by decide⟩,
    ⟨si .i2cStop calm, by decide⟩, ⟨held .r .i2cStop calm, by decide⟩⟩

theorem witness_ConfigurationHasNoEffect :
    (∃ t, exec (.i2cInit 63 1023 1) (si (.i2cInit 63 1023 1) calm) = .next t ∧ t.refused = none) ∧
    (si (.i2cInit 63 1023 1) calm).refused = none ∧ opOf (.i2cStart 0x68 .w) ≠ .i2cInit :=
  ⟨⟨_, rfl, by decide⟩, by decide, by decide⟩

/-- I2C-15. -/
theorem witness_StartWhileHoldingBusNeverEnds :
    ∃ s : State, s.current = some (.i2cStart 0x68 .w) ∧ s.host.op = some (.busWait 0x68 .w) ∧ s.i2c.role ≠ .idle ∧
      s.i2c.busy = true := ⟨inside (.busWait 0x68 .w) (held .w (.i2cStart 0x68 .w) calm), by decide⟩

/-- I2C-1 and I2C-14 as whole operations; I2C-18 as a repeated start. -/
theorem witness_StartRunOpensTransaction :
    (∃ s : State, s.host.status = .running ∧ s.refused = none ∧ s.host.hung = none ∧ s.host.op = none ∧
      i2cClk s = true ∧ s.i2c.inited = true ∧ errPending s = false ∧ calm.start = .ok ∧ calm.tx = .answer .ack ∧
      s.env.script =
        { move := none, draw := calm } :: { move := none, draw := calm } :: { move := none, draw := calm } :: [] ∧
      s.current = some (.i2cStart 0x7F .r) ∧ s.i2c.role = .idle ∧ s.i2c.busy = false) ∧
    (∃ s : State, s.host.status = .running ∧ s.refused = none ∧ s.host.hung = none ∧ s.host.op = none ∧
      i2cClk s = true ∧ s.i2c.inited = true ∧ errPending s = false ∧ calm.start = .ok ∧ calm.tx = .answer .ack ∧
      s.env.script =
        { move := none, draw := calm } :: { move := none, draw := calm } :: { move := none, draw := calm } :: [] ∧
      s.current = some (.i2cRestart 0x68 .r) ∧ s.i2c.role ≠ .idle) :=
  ⟨⟨running (.i2cStart 0x7F .r) [turn calm, turn calm, turn calm], by decide⟩,
    ⟨{ held .w (.i2cRestart 0x68 .r) calm with env := { script := [turn calm, turn calm, turn calm], turn := 0 } },
      by decide⟩⟩

/-- A write transaction with a transfer of two bytes ending at the last byte of host memory. -/
def writing (cs : List Choice) : State := { held .w (.i2cWrite 0xFFFFFFFE 2) calm with env := { script := cs, turn := 0 } }

theorem witness_WriteRunSendsBufferInOrder :
    ∃ s : State, s.current = some (.i2cWrite 0xFFFFFFFE 2) ∧ s.host.status = .running ∧ s.refused = none ∧
      s.host.hung = none ∧ s.host.op = none ∧ i2cClk s = true ∧ s.i2c.inited = true ∧ s.i2c.role = .master .w ∧ 0 < 2 ∧
      0xFFFFFFFE + 2 ≤ 2 ^ 32 ∧ errPending s = false ∧ [calm, calm].length = 2 ∧
      (∀ d ∈ [calm, calm], d.tx = .answer .ack) ∧
      s.env.script = { move := none, draw := calm } :: ([calm, calm].map (fun d => { move := none, draw := d }) ++ []) :=
  ⟨writing [turn calm, turn calm, turn calm], by decide⟩

/-- WR-2 from its byte position. -/
theorem witness_WriteRunStopsAtFirstNack :
    ∃ s : State, s.current = some (.i2cWrite 0xFFFFFFFE 2) ∧ s.host.status = .running ∧ s.refused = none ∧
      s.host.hung = none ∧ s.host.op = some (.txPhase 0xFFFFFFFE 2 0) ∧ [calm].length < 2 ∧ 0xFFFFFFFE + 2 ≤ 2 ^ 32 ∧
      (∀ d ∈ [calm], d.tx = .answer .ack) ∧ ({ calm with tx := .answer .nack } : Draw).tx = .answer .nack ∧
      s.env.script = [calm].map (fun d => { move := none, draw := d }) ++
        { move := none, draw := { calm with tx := .answer .nack } } :: [] :=
  ⟨inside (.txPhase 0xFFFFFFFE 2 0) (writing [turn calm, turn { calm with tx := .answer .nack }]), by decide⟩

/-- A read transaction with a transfer of two bytes ending at the last byte of host memory. -/
def reading (cs : List Choice) : State := { held .r (.i2cRead 0xFFFFFFFE 2) calm with env := { script := cs, turn := 0 } }

theorem witness_ReadRunFillsBufferInOrder :
    ∃ s : State, s.current = some (.i2cRead 0xFFFFFFFE 2) ∧ s.host.status = .running ∧ s.refused = none ∧
      s.host.hung = none ∧ s.host.op = none ∧ i2cClk s = true ∧ s.i2c.inited = true ∧ s.i2c.role = .master .r ∧ 0 < 2 ∧
      0xFFFFFFFE + 2 ≤ 2 ^ 32 ∧ s.host.mem.wf ∧ s.params.rxTailRace = false ∧ errPending s = false ∧
      [(0x14 : Byte), 0x14].length = 2 ∧ [calm, calm].map (fun d => d.rx) = [(0x14 : Byte), 0x14].map .data ∧
      s.env.script = { move := none, draw := calm } :: ([calm, calm].map (fun d => { move := none, draw := d }) ++ []) :=
  ⟨reading [turn calm, turn calm, turn calm], by decide⟩

theorem witness_InvariantAtReset : Memory.wf [(0xFFFFFFFF, 0x5A)] ∧ params.wf := by decide

/-- A state inside a write transaction meets every invariant, and so does its wire. -/
theorem witness_StepKeepsInvariant : (inside (.txPhase 0xFFFFFFFE 2 1) (writing [turn calm])).Inv where
  host :=
    { running := fun _ => by decide
      done := fun h => by cases h
      halted := fun r h => by cases h
      stopped := fun h => absurd rfl h
      position := fun p h => by
        cases h
        exact ⟨.i2cWrite 0xFFFFFFFE 2, by decide, rfl, rfl, by decide, by decide⟩ }
  rcc :=
    { ready := fun x => by cases x <;> decide
      swsReady := by decide
      swsOn := by decide
      enabling := fun x h => by cases x <;> cases h
      polled := fun x k h => by cases h }
  bus :=
    { hpre := .inl rfl
      ppre1 := .inl rfl
      ppre2 := .inl rfl
      gates := fun b k h => by
        cases b <;> first
          | rfl
          | (by_cases hk : k = 21
             · subst hk; revert h; decide
             · have : (0x00200000#32).getLsbD k = false := by
                 by_cases hlt : k < 32
                 · exact (by decide : ∀ j : Fin 32, j.val ≠ 21 → (0x00200000#32).getLsbD j.val = false) ⟨k, hlt⟩ hk
                 · exact BitVec.getLsbD_of_ge _ _ (by omega)
               exact this.trans (by simp [enrReset, Rcc.reset, PerBus.get])) }
  i2c :=
    { busy := fun _ => by decide
      ready := fun _ => by decide
      tailRole := fun h => by cases h
      tailRace := fun h => by cases h
      enabled := fun _ => by decide
      inside := fun p h _ => by
        cases h
        exact ⟨by decide, by decide, by decide, rfl⟩ }
  ack := fun h => by cases h
  mem := by decide
  params := by decide

/-- The clause of I2cFrame on the acknowledge enable: the same state runs a MasterWriteData. -/
theorem witness_I2cFrame_ack :
    ∃ s t : State, s.Inv ∧ s.host.status = .running ∧ s.current = some (.i2cWrite 0xFFFFFFFE 2) ∧
      opOf (.i2cWrite 0xFFFFFFFE 2) ≠ .i2cRead ∧ exec (.i2cWrite 0xFFFFFFFE 2) s = .next t :=
  ⟨inside (.txPhase 0xFFFFFFFE 2 1) (writing [turn calm]), _, witness_StepKeepsInvariant, by decide, by decide,
    by decide, rfl⟩

/-- One state meets both invariants and makes a step. -/
theorem witness_StepKeepsWireShape :
    ∃ s t : State, s.Inv ∧ WireInv s ∧ step s = .next t := by
  have h := witness_StepKeepsInvariant
  refine ⟨{ inside (.txPhase 0xFFFFFFFE 2 1) (writing [turn calm]) with
      wire := [.start, .addr 0xA0 .ack, .tx 0x10 .ack] }, _,
    ⟨⟨h.host.running, h.host.done, h.host.halted, h.host.stopped, h.host.position⟩,
      ⟨h.rcc.ready, h.rcc.swsReady, h.rcc.swsOn, h.rcc.enabling, h.rcc.polled⟩,
      ⟨h.bus.hpre, h.bus.ppre1, h.bus.ppre2, h.bus.gates⟩,
      ⟨h.i2c.busy, h.i2c.ready, h.i2c.tailRole, h.i2c.tailRace, h.i2c.enabled, h.i2c.inside⟩, h.ack, h.mem,
      h.params⟩,
    ⟨.sending, by decide, nofun, ⟨nofun, ?_⟩, fun _ => by decide, nofun⟩, rfl⟩
  rintro ⟨rep, a, d, h⟩
  cases h

end Sys2Proof.Tests
end

namespace Sys2Proof.Machine

/-! ### Reset, the sources in use and the I2C clock gate (10_state.md R29, R36, R46) -/

/-- Settles O7: a launch writes the reset table field by field; a per-source or per-bus row is read at each name. -/
theorem resetValues : Obligations.ResetValues := by
  rintro prog mem params script s rfl
  have hsrc : ∀ x, (State.launch prog mem params script).rcc.on.get x = decide (x = .hsi) ∧
      (State.launch prog mem params script).rcc.rdy.get x = decide (x = .hsi) ∧
      (State.launch prog mem params script).rcc.clk.get x = if x = .hsi then .ready else .disabled := by
    intro x
    cases x <;> exact ⟨rfl, rfl, rfl⟩
  have hbus : ∀ b, (State.launch prog mem params script).rcc.enr.get b =
      if b = .ahb1 then params.ahb1enrReset else 0 := by
    intro b
    cases b <;> rfl
  have hstatus : (State.launch prog mem params script).host.status = if prog = [] then .done else .running := by
    cases prog <;> rfl
  exact ⟨hsrc, rfl, rfl, rfl, rfl, rfl, rfl, rfl, rfl, rfl, rfl, rfl, hbus, rfl, rfl, rfl, rfl, rfl, rfl, rfl, rfl,
    rfl, rfl, rfl, rfl, rfl, hstatus, rfl, rfl, rfl, rfl, rfl, rfl⟩

/-- Some PLL is live exactly when one of the three is on or still ready (10_state.md R29). -/
theorem anyPllLive_iff (s : State) :
    anyPllLive s = true ↔
      ∃ p ∈ [Src.pll, Src.plli2s, Src.pllsai], s.rcc.on.get p = true ∨ s.rcc.rdy.get p = true := by
  simp [anyPllLive, PerSrc.get, or_assoc]

/-- The three ways a source is in use (10_state.md R29). -/
theorem inUse_iff (s : State) (x : Src) :
    inUse s x = true ↔
      x = srcOf s.rcc.sw ∨ x = srcOf s.rcc.sws ∨ (x = pllIn s ∧ anyPllLive s = true) := by
  simp [inUse, or_assoc]

/-- Settles O32: the two source maps by computation, the use of a source by its three ways. -/
theorem sourceInUse : Obligations.SourceInUse := by
  refine ⟨rfl, rfl, rfl, rfl, fun s => ⟨fun h => ?_, fun h => ?_⟩, fun s x => ?_⟩
  · simp [pllIn, h]
  · simp [pllIn, h]
  · rw [inUse_iff, anyPllLive_iff]

/-- Settles O39: the bit is 20 plus the number of the I2C controller in use. -/
theorem i2cClockGate : Obligations.I2cClockGate := by
  refine fun s => ⟨rfl, ?_⟩
  cases s.params.i2cInst <;> rfl

/-! ### The refusal mark (10_state.md R43) -/

@[simp] theorem envMove_refused (m : Move) (s : State) : (envMove m s).refused = s.refused := by
  unfold envMove
  split
  · cases m <;> rfl
  · rfl

/-- A refused host takes no step. -/
theorem State.hostRuns_of_refused {s : State} {r : RefusedReason} (h : s.refused = some r) : s.hostRuns = false := by
  simp [State.hostRuns, h]

/-- A step keeps a refusal: only a host step writes the mark, and a refused host takes none. -/
theorem step_keeps_refusal {s t : State} {r : RefusedReason} (h : step s = .next t) (hr : s.refused = some r) :
    t.refused = some r := by
  obtain ⟨m, -, hs⟩ | ⟨-, -, hs⟩ | ⟨-, hruns, -⟩ := step_cases s
  · obtain rfl := Host.Outcome.next.inj (hs.symm.trans h)
    simpa using hr
  · obtain rfl := Host.Outcome.next.inj (hs.symm.trans h)
    simpa using hr
  · rw [State.hostRuns_of_refused hr] at hruns
    cases hruns

/-- Settles O11: no step of a refused state is a host step, and a final state is one that nothing refused. -/
theorem refusalIsForGood : Obligations.RefusalIsForGood := by
  refine ⟨fun _ _ _ _ => rfl, fun s t r => step_keeps_refusal, fun s h => ?_⟩
  simp [State.final, Option.isNone_eq_false_iff, Option.isSome_iff_ne_none.mpr h]

/-! ### What a byte step inside and outside host memory can be (43_i2c_master.md R175, R176) -/

/-- A byte is sent only from inside host memory. -/
theorem lt_size_of_sendByte_next {buf len i : Nat} {s t : State} (h : sendByte buf len i s = .next t) :
    buf + i < Memory.size := by
  by_contra hlt
  simp [sendByte, State.memRead, hlt] at h

/-- A received byte is stored only inside host memory. -/
theorem lt_size_of_receiveByte_data {buf len i : Nat} {v : Byte} {s t : State} (hv : s.draw.rx = .data v)
    (h : receiveByte buf len i s = .next t) : buf + i < Memory.size := by
  by_contra hlt
  simp [receiveByte, hv, State.memWrite, hlt] at h

/-- The next states of a byte of ReadData, wherever its address lies. -/
theorem receiveByte_next_cases {buf len i : Nat} {s t : State} (h : receiveByte buf len i s = .next t) :
    (s.draw.rx = .stall ∧ t = (s.setAck (!decide (len ≤ i + 1))).hang .stall) ∨
    (∃ e, s.draw.rx = .fail e ∧
      t = ((s.setAck (!decide (len ≤ i + 1))).emit (.fail e)).fails (failureOfErr e)) ∨
    (∃ v, s.draw.rx = .data v ∧ buf + i < Memory.size ∧ len ≤ i + 1 ∧
      t = ((s.received buf len i v).setRxTail (wireAck true s)).finish .ok) ∨
    (∃ v, s.draw.rx = .data v ∧ buf + i < Memory.size ∧ i + 1 < len ∧
      t = (s.received buf len i v).goOn (.rxPhase buf len (i + 1))) := by
  cases hd : s.draw.rx with
  | stall =>
    simp only [receiveByte, hd] at h
    exact .inl ⟨rfl, (Host.Outcome.next.inj h).symm⟩
  | fail e =>
    simp only [receiveByte, hd] at h
    exact .inr (.inl ⟨e, rfl, (Host.Outcome.next.inj h).symm⟩)
  | data v =>
    have ha := lt_size_of_receiveByte_data hd h
    obtain ⟨u, hu, hc⟩ := receiveByte_cases buf len i s ha
    obtain rfl := Host.Outcome.next.inj (hu.symm.trans h)
    rw [hd] at hc
    obtain ⟨h0, -⟩ | ⟨e, h0, -⟩ | ⟨w, hw, hl, hu⟩ | ⟨w, hw, hl, hu⟩ := hc
    · cases h0
    · cases h0
    · exact .inr (.inr (.inl ⟨w, hw, ha, hl, hu⟩))
    · exact .inr (.inr (.inr ⟨w, hw, ha, hl, hu⟩))

/-! ### Initialize, the extra byte of Stop, and the outcome of a step -/

/-- The three ways of Initialize (43_i2c_master.md R171). -/
theorem execI2cInit_cases (freq : BitVec 6) (own : BitVec 10) (am : BitVec 1) (s : State) :
    (i2cClk s = false ∧ execI2cInit freq own am s = .next (s.raise .i2cClockOff)) ∨
    (i2cClk s = true ∧ s.i2c.role ≠ .idle ∧ execI2cInit freq own am s = .next (s.raise .initWhileMaster)) ∨
    (i2cClk s = true ∧ s.i2c.role = .idle ∧
      execI2cInit freq own am s = .next ((s.configureI2c freq own am).finish .ok)) := by
  cases hc : i2cClk s with
  | false => exact .inl ⟨rfl, by simp [execI2cInit, hc]⟩
  | true =>
    by_cases hr : s.i2c.role = .idle
    · exact .inr (.inr ⟨rfl, hr, by simp [execI2cInit, hc, hr]⟩)
    · exact .inr (.inl ⟨rfl, hr, by simp [execI2cInit, hc, hr]⟩)

@[simp] theorem State.extraByte_i2c (s : State) : s.extraByte.i2c = s.i2c := by
  unfold State.extraByte
  split <;> rfl

/-- The next state of an outcome changed by `mapNext` comes from a next state. -/
theorem of_mapNext_eq_next {f : State → State} {o : Host.Outcome State Fault Refusal} {t : State}
    (h : mapNext f o = .next t) : ∃ u, o = .next u ∧ f u = t := by
  cases o with
  | next u => exact ⟨u, rfl, Host.Outcome.next.inj h⟩
  | fault r => cases h
  | refused r => cases h

/-! ### The RCC and delay operations leave the I2C part alone (40_rcc_clock.md, 41_rcc_bus.md, 42_delay.md) -/

theorem clkFirst_i2c (src : BitVec 3) (state : BitVec 2) (s : State) : (clkFirst src state s).i2c = s.i2c := by
  obtain ⟨-, h⟩ | ⟨x, -, ⟨-, h⟩ | ⟨-, -, h⟩ | ⟨-, -, h⟩ | ⟨-, h⟩⟩ := clkFirst_cases src state s <;> simp [h]

theorem clkPoll_i2c (x : Src) (k : Nat) (s : State) : (clkPoll x k s).i2c = s.i2c := by
  obtain ⟨-, h⟩ | ⟨-, -, h⟩ | ⟨-, -, h⟩ := clkPoll_cases x k s <;> simp [h]

theorem prescale_i2c (b : PrescBus) (code : Byte) (write : State → State) (s : State)
    (hw : (write s).i2c = s.i2c) : (prescale b code write s).i2c = s.i2c := by
  obtain ⟨-, h⟩ | ⟨-, h⟩ := prescale_cases b code write s <;> simp [h, hw]

theorem gate_i2c (bus : BitVec 3) (bit : Nat) (bad : Result) (write : Bus → State → State) (s : State)
    (hw : ∀ b, (write b s).i2c = s.i2c) : (gate bus bit bad write s).i2c = s.i2c := by
  obtain ⟨-, h⟩ | ⟨b, -, ⟨-, h⟩ | ⟨-, h⟩⟩ := gate_cases bus bit bad write s <;> simp [h, hw]

theorem delay_i2c (n max : Nat) (s : State) : (delay n max s).i2c = s.i2c := by
  obtain ⟨-, -, h⟩ | ⟨-, h⟩ := delay_cases n max s <;> simp [h]

theorem execClkState_i2c {src : BitVec 3} {state : BitVec 2} {s t : State}
    (h : execClkState src state s = .next t) : t.i2c = s.i2c := by
  obtain rfl := Host.Outcome.next.inj h
  split
  · exact clkPoll_i2c _ _ s
  · exact clkFirst_i2c src state s

theorem execPllCfg_i2c {m : BitVec 6} {n : BitVec 9} {p psrc : BitVec 2} {q : BitVec 4} {r : BitVec 3} {nul : Bool}
    {s t : State} (h : execPllCfg m n p psrc q r nul s = .next t) : t.i2c = s.i2c := by
  obtain rfl := Host.Outcome.next.inj h
  split
  · rfl
  · split
    · rfl
    · split <;> rfl

theorem execPeriphDis_i2c {bus : BitVec 3} {bit : Nat} {s t : State} (h : execPeriphDis bus bit s = .next t) :
    t.i2c = s.i2c := by
  obtain rfl := Host.Outcome.next.inj h
  refine gate_i2c bus bit _ _ s fun b => ?_
  split <;> rfl

/-- No operation of the units RCC and DELAY writes the I2C part. -/
theorem exec_i2c_of_not_onI2c {i : Instr} {s t : State} (h : exec i s = .next t) (hi : onI2c (opOf i) = false) :
    t.i2c = s.i2c := by
  cases i with
  | clkState src state => exact execClkState_i2c h
  | pllCfg m n p psrc q r nul => exact execPllCfg_i2c h
  | setSysClk sel => obtain rfl := Host.Outcome.next.inj h; rfl
  | getSysClk => obtain rfl := Host.Outcome.next.inj h; rfl
  | ahbPre code => obtain rfl := Host.Outcome.next.inj h; exact prescale_i2c _ _ _ s rfl
  | apb1Pre code => obtain rfl := Host.Outcome.next.inj h; exact prescale_i2c _ _ _ s rfl
  | apb2Pre code => obtain rfl := Host.Outcome.next.inj h; exact prescale_i2c _ _ _ s rfl
  | periphEn bus bit => obtain rfl := Host.Outcome.next.inj h; exact gate_i2c _ _ _ _ s fun _ => rfl
  | periphDis bus bit => exact execPeriphDis_i2c h
  | delayMs n => obtain rfl := Host.Outcome.next.inj h; exact delay_i2c _ _ s
  | delayUs n => obtain rfl := Host.Outcome.next.inj h; exact delay_i2c _ _ s
  | i2cInit freq own am => cases hi
  | i2cStart a d => cases hi
  | i2cRestart a d => cases hi
  | i2cWrite buf len => cases hi
  | i2cRead buf len => cases hi
  | i2cStop => cases hi

/-! ### The sticky error flags (10_state.md R34) -/

/-- Every error flag set in `s` is still set in `t`. -/
structure FlagsKept (s t : State) : Prop where
  af : s.i2c.af = true → t.i2c.af = true
  arlo : s.i2c.arlo = true → t.i2c.arlo = true
  berr : s.i2c.berr = true → t.i2c.berr = true

theorem FlagsKept.of_i2c_eq {s t : State} (h : t.i2c = s.i2c) : FlagsKept s t :=
  ⟨fun hf => h ▸ hf, fun hf => h ▸ hf, fun hf => h ▸ hf⟩

theorem State.fails_af (f : Failure) (s : State) : (s.fails f).i2c.af = (s.i2c.af || decide (f = .nack)) := by
  cases f <;> simp [State.fails, State.applyFail]

theorem State.fails_arlo (f : Failure) (s : State) :
    (s.fails f).i2c.arlo = (s.i2c.arlo || decide (f = .arbLost)) := by
  cases f <;> simp [State.fails, State.applyFail]

theorem State.fails_berr (f : Failure) (s : State) :
    (s.fails f).i2c.berr = (s.i2c.berr || decide (f = .busError)) := by
  cases f <;> simp [State.fails, State.applyFail]

/-- A failure reported after an update that keeps the flags keeps them too: it only sets one. -/
theorem FlagsKept.fails {s u : State} {f : Failure} (h : FlagsKept s u) : FlagsKept s (u.fails f) where
  af hf := by rw [State.fails_af, h.af hf, Bool.true_or]
  arlo hf := by rw [State.fails_arlo, h.arlo hf, Bool.true_or]
  berr hf := by rw [State.fails_berr, h.berr hf, Bool.true_or]

/-- The start's first step keeps the flags where what follows it does. -/
theorem startFirst_flagsKept (rest : State → State) (s : State) (hrest : FlagsKept s (rest s.clearRxTail)) :
    FlagsKept s (startFirst rest s) := by
  obtain ⟨reason, -, h⟩ | ⟨-, -, h⟩ | ⟨-, -, h⟩ := startFirst_cases rest s <;> rw [h]
  · exact ⟨id, id, id⟩
  · exact ⟨id, id, id⟩
  · exact hrest

theorem transferFirst_flagsKept (against : Dir) (p : Position) (buf len : Nat) (s : State) :
    FlagsKept s (transferFirst against p buf len s) := by
  obtain ⟨reason, h⟩ | ⟨-, -, -, ⟨-, h⟩ | ⟨-, -, h⟩ | ⟨-, -, -, h⟩ | ⟨-, -, -, h⟩⟩ :=
    transferFirst_cases against p buf len s <;> rw [h] <;> exact ⟨id, id, id⟩

theorem startGeneration_flagsKept (rep : Bool) (a : BitVec 7) (d : Dir) (s : State) :
    FlagsKept s (startGeneration rep a d s) := by
  obtain ⟨-, -, h⟩ | ⟨-, ⟨-, h⟩ | ⟨e, -, h⟩ | ⟨-, h⟩⟩ := startGeneration_cases rep a d s <;> rw [h]
  · exact ⟨id, id, id⟩
  · exact ⟨id, id, id⟩
  · exact FlagsKept.fails ⟨id, id, id⟩
  · exact ⟨id, id, id⟩

theorem addressByte_flagsKept (a : BitVec 7) (d : Dir) (s : State) : FlagsKept s (addressByte a d s) := by
  obtain ⟨-, h⟩ | ⟨-, h⟩ | ⟨r, f, -, -, h⟩ := addressByte_cases a d s <;> rw [h]
  · exact ⟨id, id, id⟩
  · exact ⟨id, id, id⟩
  · exact FlagsKept.fails ⟨id, id, id⟩

theorem sendByte_flagsKept {buf len i : Nat} {s t : State} (h : sendByte buf len i s = .next t) : FlagsKept s t := by
  obtain ⟨u, hu, hc⟩ := sendByte_cases buf len i s (lt_size_of_sendByte_next h)
  obtain rfl := Host.Outcome.next.inj (hu.symm.trans h)
  obtain ⟨-, rfl⟩ | ⟨r, f, -, -, rfl⟩ | ⟨-, -, rfl⟩ | ⟨-, -, rfl⟩ := hc
  · exact ⟨id, id, id⟩
  · exact FlagsKept.fails ⟨id, id, id⟩
  · exact ⟨id, id, id⟩
  · exact ⟨id, id, id⟩

theorem receiveByte_flagsKept {buf len i : Nat} {s t : State} (h : receiveByte buf len i s = .next t) :
    FlagsKept s t := by
  obtain ⟨-, rfl⟩ | ⟨e, -, rfl⟩ | ⟨v, -, -, -, rfl⟩ | ⟨v, -, -, -, rfl⟩ := receiveByte_next_cases h
  · exact ⟨id, id, id⟩
  · exact FlagsKept.fails ⟨id, id, id⟩
  · exact ⟨id, id, id⟩
  · exact ⟨id, id, id⟩

theorem execI2cInit_flagsKept {freq : BitVec 6} {own : BitVec 10} {am : BitVec 1} {s t : State}
    (h : execI2cInit freq own am s = .next t) : FlagsKept s t := by
  obtain ⟨-, hs⟩ | ⟨-, -, hs⟩ | ⟨-, -, hs⟩ := execI2cInit_cases freq own am s <;>
    obtain rfl := Host.Outcome.next.inj (hs.symm.trans h) <;> exact ⟨id, id, id⟩

theorem execI2cStart_flagsKept {a : BitVec 7} {d : Dir} {s t : State} (h : execI2cStart a d s = .next t) :
    FlagsKept s t := by
  obtain rfl := Host.Outcome.next.inj h
  split
  · exact startGeneration_flagsKept _ _ _ s
  · exact addressByte_flagsKept _ _ s
  · exact startFirst_flagsKept _ s ⟨id, id, id⟩

theorem execI2cRestart_flagsKept {a : BitVec 7} {d : Dir} {s t : State} (h : execI2cRestart a d s = .next t) :
    FlagsKept s t := by
  obtain rfl := Host.Outcome.next.inj h
  split
  · exact startGeneration_flagsKept _ _ _ s
  · exact startGeneration_flagsKept _ _ _ s
  · exact addressByte_flagsKept _ _ s
  · exact startFirst_flagsKept _ s ⟨id, id, id⟩

theorem execI2cWrite_flagsKept {buf len : Nat} {s t : State} (h : execI2cWrite buf len s = .next t) :
    FlagsKept s t := by
  unfold execI2cWrite at h
  split at h
  · exact sendByte_flagsKept h
  · obtain rfl := Host.Outcome.next.inj h
    exact transferFirst_flagsKept _ _ _ _ s

theorem execI2cRead_flagsKept {buf len : Nat} {s t : State} (h : execI2cRead buf len s = .next t) :
    FlagsKept s t := by
  unfold execI2cRead at h
  split at h
  · exact receiveByte_flagsKept h
  · obtain rfl := Host.Outcome.next.inj h
    exact transferFirst_flagsKept _ _ _ _ s

theorem execI2cStop_flagsKept {s t : State} (h : execI2cStop s = .next t) : FlagsKept s t := by
  obtain rfl := Host.Outcome.next.inj h
  split
  · exact ⟨id, id, id⟩
  · constructor <;> simp [State.releaseBus]

/-- No host step clears an error flag. -/
theorem exec_flagsKept {i : Instr} {s t : State} (h : exec i s = .next t) : FlagsKept s t := by
  by_cases hi : onI2c (opOf i) = false
  · exact .of_i2c_eq (exec_i2c_of_not_onI2c h hi)
  cases i with
  | i2cInit freq own am => exact execI2cInit_flagsKept h
  | i2cStart a d => exact execI2cStart_flagsKept h
  | i2cRestart a d => exact execI2cRestart_flagsKept h
  | i2cWrite buf len => exact execI2cWrite_flagsKept h
  | i2cRead buf len => exact execI2cRead_flagsKept h
  | i2cStop => exact execI2cStop_flagsKept h
  | _ => exact absurd rfl hi

theorem envMove_flagsKept (m : Move) (s : State) : FlagsKept s (envMove m s) := by
  unfold envMove
  split
  · cases m <;> exact ⟨id, id, id⟩
  · exact ⟨id, id, id⟩

/-- No step of the machine clears an error flag. -/
theorem step_flagsKept {s t : State} (h : step s = .next t) : FlagsKept s t := by
  obtain ⟨m, -, hs⟩ | ⟨-, -, hs⟩ | ⟨-, -, w, -, ⟨e, -, hs⟩ | ⟨i, -, hs⟩⟩ := step_cases s
  · obtain rfl := Host.Outcome.next.inj (hs.symm.trans h)
    obtain ⟨haf, harlo, hberr⟩ := envMove_flagsKept m s
    exact ⟨haf, harlo, hberr⟩
  · obtain rfl := Host.Outcome.next.inj (hs.symm.trans h)
    exact ⟨id, id, id⟩
  · obtain rfl := Host.Outcome.next.inj (hs.symm.trans h)
    exact ⟨id, id, id⟩
  · obtain ⟨u, hu, rfl⟩ := of_mapNext_eq_next (hs.symm.trans h)
    obtain ⟨haf, harlo, hberr⟩ := exec_flagsKept hu
    exact ⟨haf, harlo, hberr⟩

theorem errPending_iff (s : State) :
    errPending s = true ↔ s.i2c.af = true ∨ s.i2c.arlo = true ∨ s.i2c.berr = true := by
  simp [errPending, or_assoc]

/-- Settles O23: a reported failure sets its own flag, and no operation or autonomous move clears one. -/
theorem stickyErrorFlags : Obligations.StickyErrorFlags := by
  refine ⟨fun f s => ⟨State.fails_af f s, State.fails_arlo f s, State.fails_berr f s, rfl⟩, fun s t h => ?_,
    fun _ _ _ _ => rfl, errPending_iff⟩
  obtain ⟨haf, harlo, hberr⟩ := step_flagsKept h
  exact ⟨haf, harlo, hberr⟩

/-! ### The configuration values of Initialize (10_state.md R31)

Every condition an operation tests reads the same with other configuration values in the state, and every update leaves
them where they are. So each operation commutes with `State.withConfig`; where it branches, both sides take the same
branch, and `apply_ite` moves the change out of it. -/

/-- The three configuration values Initialize writes. -/
structure I2cConfig where
  freq : BitVec 6
  own : BitVec 10
  addmode : BitVec 1

/-- The state with other configuration values. -/
def State.withConfig (c : I2cConfig) (s : State) : State :=
  { s with i2c := { s.i2c with freq := c.freq, addmode := c.addmode, own := c.own } }

section
variable (c : I2cConfig) (s : State)

@[simp] theorem State.withConfig_host : (s.withConfig c).host = s.host := rfl
@[simp] theorem State.withConfig_draw : (s.withConfig c).draw = s.draw := rfl
@[simp] theorem i2cGuard_withConfig : i2cGuard (s.withConfig c) = i2cGuard s := rfl
@[simp] theorem staleFails_withConfig : staleFails (s.withConfig c) = staleFails s := rfl
@[simp] theorem State.memRead_withConfig (a : Nat) : (s.withConfig c).memRead a = s.memRead a := rfl

@[simp] theorem State.emit_withConfig (e : WireEvent) : (s.withConfig c).emit e = (s.emit e).withConfig c := rfl
@[simp] theorem State.setAck_withConfig (v : Bool) : (s.withConfig c).setAck v = (s.setAck v).withConfig c := rfl
@[simp] theorem State.clearRxTail_withConfig : (s.withConfig c).clearRxTail = s.clearRxTail.withConfig c := rfl

theorem State.extraByte_withConfig : (s.withConfig c).extraByte = s.extraByte.withConfig c := by
  unfold State.extraByte
  rw [apply_ite (State.withConfig c)]
  rfl

theorem State.memWrite_withConfig (a : Nat) (v : Byte) :
    (s.withConfig c).memWrite a v = (s.memWrite a v).map (State.withConfig c) := by
  unfold State.memWrite
  rw [apply_ite (Option.map (State.withConfig c))]
  rfl

/-! #### RCC and delay operations -/

theorem clkFirst_withConfig (src : BitVec 3) (state : BitVec 2) :
    clkFirst src state (s.withConfig c) = (clkFirst src state s).withConfig c := by
  unfold clkFirst
  cases srcOfCode src with
  | none => rfl
  | some x =>
    cases onOffOfCode state with
    | none => rfl
    | some b =>
      cases b with
      | true => rfl
      | false =>
        simp only [clkOff, apply_ite (State.withConfig c)]
        rfl

theorem clkPoll_withConfig (x : Src) (k : Nat) :
    clkPoll x k (s.withConfig c) = (clkPoll x k s).withConfig c := by
  unfold clkPoll
  simp only [apply_ite (State.withConfig c)]
  rfl

theorem execClkState_withConfig (src : BitVec 3) (state : BitVec 2) :
    execClkState src state (s.withConfig c) = mapNext (State.withConfig c) (execClkState src state s) := by
  simp only [execClkState, mapNext, State.withConfig_host]
  split
  · rw [clkPoll_withConfig]
  · rw [clkFirst_withConfig]

theorem execPllCfg_withConfig (m : BitVec 6) (n : BitVec 9) (p psrc : BitVec 2) (q : BitVec 4) (r : BitVec 3)
    (nul : Bool) :
    execPllCfg m n p psrc q r nul (s.withConfig c) =
      mapNext (State.withConfig c) (execPllCfg m n p psrc q r nul s) := by
  simp only [execPllCfg, mapNext, apply_ite (State.withConfig c)]
  cases pllSrcOfCode psrc <;> rfl

theorem prescale_withConfig (b : PrescBus) (code : Byte) (write : State → State)
    (hw : write (s.withConfig c) = (write s).withConfig c) :
    prescale b code write (s.withConfig c) = (prescale b code write s).withConfig c := by
  unfold prescale
  rw [hw, apply_ite (State.withConfig c)]
  rfl

theorem gate_withConfig (bus : BitVec 3) (bit : Nat) (bad : Result) (write : Bus → State → State)
    (hw : ∀ b, write b (s.withConfig c) = (write b s).withConfig c) :
    gate bus bit bad write (s.withConfig c) = (gate bus bit bad write s).withConfig c := by
  unfold gate
  cases busOfCode bus with
  | none => rfl
  | some b =>
    simp only [hw, apply_ite (State.withConfig c)]
    rfl

theorem delay_withConfig (n max : Nat) : delay n max (s.withConfig c) = (delay n max s).withConfig c := by
  unfold delay
  rw [apply_ite (State.withConfig c)]
  rfl

/-! #### I2C operations -/

theorem startFirst_withConfig (rest : State → State)
    (hrest : rest (s.clearRxTail.withConfig c) = (rest s.clearRxTail).withConfig c) :
    startFirst rest (s.withConfig c) = (startFirst rest s).withConfig c := by
  simp only [startFirst, i2cGuard_withConfig, staleFails_withConfig, State.clearRxTail_withConfig, hrest]
  cases i2cGuard s with
  | some reason => rfl
  | none =>
    simp only [apply_ite (State.withConfig c)]
    rfl

theorem transferFirst_withConfig (against : Dir) (p : Position) (buf len : Nat) :
    transferFirst against p buf len (s.withConfig c) = (transferFirst against p buf len s).withConfig c := by
  simp only [transferFirst, i2cGuard_withConfig]
  cases i2cGuard s with
  | some reason => rfl
  | none =>
    simp only [apply_ite (State.withConfig c)]
    rfl

theorem startGeneration_withConfig (rep : Bool) (a : BitVec 7) (d : Dir) :
    startGeneration rep a d (s.withConfig c) = (startGeneration rep a d s).withConfig c := by
  simp only [startGeneration, State.withConfig_draw, apply_ite (State.withConfig c)]
  cases s.draw.start with
  | stall => rfl
  | fail e => cases e <;> rfl
  | ok => rfl

theorem addressByte_withConfig (a : BitVec 7) (d : Dir) :
    addressByte a d (s.withConfig c) = (addressByte a d s).withConfig c := by
  simp only [addressByte, State.withConfig_draw]
  cases s.draw.tx with
  | stall => rfl
  | answer r => cases r <;> rfl

theorem byteSent_withConfig (buf len i : Nat) (b : Byte) :
    byteSent buf len i b (s.withConfig c) = (byteSent buf len i b s).withConfig c := by
  simp only [byteSent, State.withConfig_draw]
  cases s.draw.tx with
  | stall => rfl
  | answer r =>
    cases r with
    | ack =>
      simp only [failureOfResp, apply_ite (State.withConfig c)]
      rfl
    | nack => rfl
    | arbLost => rfl
    | busError => rfl

theorem sendByte_withConfig (buf len i : Nat) :
    sendByte buf len i (s.withConfig c) = mapNext (State.withConfig c) (sendByte buf len i s) := by
  simp only [sendByte, State.memRead_withConfig]
  cases s.memRead (buf + i) with
  | none => rfl
  | some b => simp only [byteSent_withConfig, mapNext]

theorem byteStored_withConfig (buf len i : Nat) (a : Bool) :
    byteStored buf len i a (s.withConfig c) = (byteStored buf len i a s).withConfig c := by
  unfold byteStored
  rw [apply_ite (State.withConfig c)]
  rfl

theorem receiveByte_withConfig (buf len i : Nat) :
    receiveByte buf len i (s.withConfig c) = mapNext (State.withConfig c) (receiveByte buf len i s) := by
  have hack : wireAck (decide (len ≤ i + 1)) (s.withConfig c) = wireAck (decide (len ≤ i + 1)) s := rfl
  simp only [receiveByte, State.withConfig_draw, hack, State.setAck_withConfig, State.emit_withConfig,
    State.memWrite_withConfig]
  cases s.draw.rx with
  | stall => rfl
  | fail e => cases e <;> rfl
  | data v =>
    dsimp only
    cases ((s.setAck _).emit _).memWrite (buf + i) v with
    | none => rfl
    | some u => simp only [Option.map_some, byteStored_withConfig, mapNext]

theorem execI2cStart_withConfig (a : BitVec 7) (d : Dir) :
    execI2cStart a d (s.withConfig c) = mapNext (State.withConfig c) (execI2cStart a d s) := by
  simp only [execI2cStart, mapNext, State.withConfig_host]
  split
  · rw [startGeneration_withConfig]
  · rw [addressByte_withConfig]
  · exact congrArg Host.Outcome.next (startFirst_withConfig c s _ rfl)

theorem execI2cRestart_withConfig (a : BitVec 7) (d : Dir) :
    execI2cRestart a d (s.withConfig c) = mapNext (State.withConfig c) (execI2cRestart a d s) := by
  simp only [execI2cRestart, mapNext, State.withConfig_host]
  split
  · rw [startGeneration_withConfig]
  · rw [startGeneration_withConfig]
  · rw [addressByte_withConfig]
  · exact congrArg Host.Outcome.next (startFirst_withConfig c s _ rfl)

theorem execI2cWrite_withConfig (buf len : Nat) :
    execI2cWrite buf len (s.withConfig c) = mapNext (State.withConfig c) (execI2cWrite buf len s) := by
  simp only [execI2cWrite, State.withConfig_host]
  split
  · exact sendByte_withConfig c s _ _ _
  · rw [transferFirst_withConfig, mapNext]

theorem execI2cRead_withConfig (buf len : Nat) :
    execI2cRead buf len (s.withConfig c) = mapNext (State.withConfig c) (execI2cRead buf len s) := by
  simp only [execI2cRead, State.withConfig_host]
  split
  · exact receiveByte_withConfig c s _ _ _
  · rw [transferFirst_withConfig, mapNext]

theorem execI2cStop_withConfig :
    execI2cStop (s.withConfig c) = mapNext (State.withConfig c) (execI2cStop s) := by
  simp only [execI2cStop, mapNext, State.extraByte_withConfig, apply_ite (State.withConfig c)]
  rfl

/-- Every operation but Initialize does the same whatever the configuration values are. -/
theorem exec_withConfig (i : Instr) (hi : opOf i ≠ .i2cInit) :
    exec i (s.withConfig c) = mapNext (State.withConfig c) (exec i s) := by
  cases i with
  | clkState src state => exact execClkState_withConfig c s src state
  | pllCfg m n p psrc q r nul => exact execPllCfg_withConfig c s m n p psrc q r nul
  | setSysClk sel => rfl
  | getSysClk => rfl
  | ahbPre code => exact congrArg Host.Outcome.next (prescale_withConfig c s _ _ _ rfl)
  | apb1Pre code => exact congrArg Host.Outcome.next (prescale_withConfig c s _ _ _ rfl)
  | apb2Pre code => exact congrArg Host.Outcome.next (prescale_withConfig c s _ _ _ rfl)
  | periphEn bus bit => exact congrArg Host.Outcome.next (gate_withConfig c s _ _ _ _ fun _ => rfl)
  | periphDis bus bit =>
    refine congrArg Host.Outcome.next (gate_withConfig c s _ _ _ _ fun b => ?_)
    rw [apply_ite (State.withConfig c)]
    rfl
  | delayMs n => exact congrArg Host.Outcome.next (delay_withConfig c s _ _)
  | delayUs n => exact congrArg Host.Outcome.next (delay_withConfig c s _ _)
  | i2cInit freq own am => exact absurd rfl hi
  | i2cStart a d => exact execI2cStart_withConfig c s a d
  | i2cRestart a d => exact execI2cRestart_withConfig c s a d
  | i2cWrite buf len => exact execI2cWrite_withConfig c s buf len
  | i2cRead buf len => exact execI2cRead_withConfig c s buf len
  | i2cStop => exact execI2cStop_withConfig c s

end

/-- Initialize that refuses nothing leaves its operands as the configuration values (43_i2c_master.md R171). -/
theorem execI2cInit_writes_config {freq : BitVec 6} {own : BitVec 10} {am : BitVec 1} {s t : State}
    (h : execI2cInit freq own am s = .next t) (ht : t.refused = none) :
    t.i2c.freq = freq ∧ t.i2c.addmode = am ∧ t.i2c.own = own := by
  obtain ⟨-, hs⟩ | ⟨-, -, hs⟩ | ⟨-, -, hs⟩ := execI2cInit_cases freq own am s <;>
    obtain rfl := Host.Outcome.next.inj (hs.symm.trans h)
  · cases ht
  · cases ht
  · exact ⟨rfl, rfl, rfl⟩

/-- Settles O52: Initialize writes the three values, and every other operation commutes with a change of them. -/
theorem configurationHasNoEffect : Obligations.ConfigurationHasNoEffect :=
  ⟨fun _ _ _ _ _ h ht _ => execI2cInit_writes_config h ht,
    fun i freq own am s hi => exec_withConfig ⟨freq, own, am⟩ s i hi⟩

end Sys2Proof.Machine

namespace Sys2Proof.Machine

/-! ### The address byte (20_memory.md R75) -/

/-- The shift drops no bit of a 7-bit address and leaves bit 0 clear, so the OR with the direction adds. -/
theorem addrByte_toNat (a : BitVec 7) (d : Dir) : (addrByte a d).toNat = 2 * a.toNat + d.code.toNat := by
  have ha := a.isLt
  have hd := d.code.isLt
  have hshift : (a.setWidth 8 <<< 1).toNat = 2 ^ 1 * a.toNat := by
    rw [BitVec.toNat_shiftLeft, BitVec.toNat_setWidth, Nat.shiftLeft_eq]
    omega
  have hcode : (d.code.setWidth 8).toNat = d.code.toNat := BitVec.toNat_setWidth_of_le (by decide)
  rw [addrByte, BitVec.toNat_or, hshift, hcode, ← Nat.two_pow_add_eq_or_of_lt hd, Nat.pow_one]

/-- Settles O42: the two directions' codes are 0 and 1, and the two bytes of 0x68 are computed. -/
theorem addressByte_value : Obligations.AddressByte :=
  ⟨fun a => ⟨addrByte_toNat a .w, addrByte_toNat a .r⟩, rfl, rfl⟩

end Sys2Proof.Machine

namespace Sys2Proof.Machine

/-! ### Gate bits (30_encoding.md R100, R103, 41_rcc_bus.md R145) -/

/-- Bit j of a word whose only set bit is bit k of a gate word. -/
theorem getLsbD_one_shiftLeft {k : Nat} (hk : k ≤ 31) (j : Nat) : (1#32 <<< k).getLsbD j = decide (j = k) := by
  rw [BitVec.getLsbD_shiftLeft, BitVec.getLsbD_one, Bool.eq_iff_iff]
  simp only [Bool.and_eq_true, Bool.not_eq_true', decide_eq_true_eq, decide_eq_false_iff_not]
  omega

theorem getLsbD_setBit (w : Word) {k : Nat} (hk : k ≤ 31) (j : Nat) :
    (setBit w k).getLsbD j = if j = k then true else w.getLsbD j := by
  rw [setBit, BitVec.getLsbD_or, getLsbD_one_shiftLeft hk]
  by_cases hj : j = k <;> simp [hj]

theorem getLsbD_clearBit (w : Word) {k : Nat} (hk : k ≤ 31) (j : Nat) :
    (clearBit w k).getLsbD j = if j = k then false else w.getLsbD j := by
  rw [clearBit, BitVec.getLsbD_and, BitVec.getLsbD_not, getLsbD_one_shiftLeft hk]
  by_cases hj : j = k
  · simp [hj]
  · by_cases h : j < 32
    · simp [hj, h]
    · simp [hj, BitVec.getLsbD_of_ge w j (by omega)]

theorem BitRange.le_of_holds {r : BitRange} {k : Nat} (hr : r.wf) (h : BitRange.holds r k = true) : k ≤ 31 := by
  simp only [BitRange.holds, Bool.and_eq_true, decide_eq_true_eq] at h
  exact h.2.trans hr.2

/-- A range of admitted parameters ends at bit 31, and the two fixed sets end at bits 7 and 1. -/
theorem legalBit_le {p : Params} {b : Bus} {k : Nat} (hp : p.wf) (h : legalBit p b k = true) : k ≤ 31 := by
  obtain ⟨-, -, -, -, hahb1, hapb1, hapb2, -⟩ := hp
  have hsets : ∀ n ∈ Config.ahb2Set ++ Config.ahb3Set, n ≤ 31 := by decide
  cases b with
  | ahb1 => exact BitRange.le_of_holds hahb1 h
  | ahb2 => exact hsets k (List.mem_append_left _ (List.contains_iff_mem.mp h))
  | ahb3 => exact hsets k (List.mem_append_right _ (List.contains_iff_mem.mp h))
  | apb1 => exact BitRange.le_of_holds hapb1 h
  | apb2 => exact BitRange.le_of_holds hapb2 h

/-- Settles O37: the shifted 1 has bit k alone, and every legal set ends at bit 31 or below. -/
theorem gateBitArithmetic : Obligations.GateBitArithmetic :=
  ⟨fun w _ j hk => ⟨rfl, rfl, getLsbD_setBit w hk j, getLsbD_clearBit w hk j⟩, fun _ _ _ => legalBit_le⟩

end Sys2Proof.Machine

namespace Sys2Proof

/-! ### The rows of the opcode table (30_encoding.md R90 to R92)

Every row fixes the top 16 bits, UNIT and OP, and no two rows have the same, so those bits name the only row a word can
match. -/

theorem Row.hits_iff (r : Row) (w : Command) : r.hits w = true ↔ w &&& r.mask = r.mtch := beq_iff_eq

/-- Every row fixes all of UNIT and OP. -/
theorem unitOp_mask {r : Row} (hr : r ∈ opcodeTable) : field r.mask 48 16 = BitVec.allOnes 16 :=
  (by decide : ∀ r ∈ opcodeTable, field r.mask 48 16 = BitVec.allOnes 16) r hr

/-- No two rows have the same UNIT and OP. -/
theorem unitOp_nodup : (opcodeTable.map fun r => field r.mtch 48 16).Nodup := by decide

theorem field_and (a b : Command) (lo len : Nat) : field (a &&& b) lo len = field a lo len &&& field b lo len :=
  BitVec.extractLsb'_and

@[simp] theorem field_or (a b : Command) (lo len : Nat) : field (a ||| b) lo len = field a lo len ||| field b lo len :=
  BitVec.extractLsb'_or

/-- A word that matches a row has its UNIT and OP. -/
theorem unitOp_of_match {r : Row} {w : Command} (hr : r ∈ opcodeTable) (h : w &&& r.mask = r.mtch) :
    field w 48 16 = field r.mtch 48 16 := by
  rw [← h, field_and, unitOp_mask hr, BitVec.and_allOnes]

theorem row_eq_of_unitOp_eq {r r' : Row} (hr : r ∈ opcodeTable) (hr' : r' ∈ opcodeTable)
    (h : field r.mtch 48 16 = field r'.mtch 48 16) : r = r' :=
  List.inj_on_of_nodup_map unitOp_nodup hr hr' h

/-- At most one row matches a word. -/
theorem row_eq_of_match {r r' : Row} {w : Command} (hr : r ∈ opcodeTable) (hr' : r' ∈ opcodeTable)
    (h : w &&& r.mask = r.mtch) (h' : w &&& r'.mask = r'.mtch) : r = r' :=
  row_eq_of_unitOp_eq hr hr' ((unitOp_of_match hr h).symm.trans (unitOp_of_match hr' h'))

theorem decode_eq_ok_iff (w : Command) (i : Instr) :
    decode w = .ok i ↔ ∃ r ∈ opcodeTable, w &&& r.mask = r.mtch ∧ r.build w = i := by
  unfold decode
  cases hf : opcodeTable.find? (fun r => r.hits w) with
  | none =>
    refine ⟨nofun, fun ⟨r, hr, hm, _⟩ => ?_⟩
    exact absurd ((r.hits_iff w).mpr hm) (List.find?_eq_none.mp hf r hr)
  | some r =>
    have hr := List.mem_of_find?_eq_some hf
    have hm := (r.hits_iff w).mp (List.find?_some (p := fun r => Row.hits r w) hf)
    refine ⟨fun h => ⟨r, hr, hm, Except.ok.inj h⟩, fun ⟨r', hr', hm', hb⟩ => ?_⟩
    obtain rfl := row_eq_of_match hr hr' hm hm'
    exact congrArg Except.ok hb

theorem decode_eq_error_iff (w : Command) :
    (∃ e, decode w = .error e) ↔ ∀ r ∈ opcodeTable, w &&& r.mask ≠ r.mtch := by
  cases hd : decode w with
  | ok i =>
    obtain ⟨r, hr, hm, -⟩ := (decode_eq_ok_iff w i).mp hd
    exact ⟨nofun, fun h => absurd hm (h r hr)⟩
  | error e =>
    refine ⟨fun _ r hr hm => ?_, fun _ => ⟨e, rfl⟩⟩
    cases hd.symm.trans ((decode_eq_ok_iff w _).mpr ⟨r, hr, hm, rfl⟩)

/-- Two rows that both match a word are one row, and the table lists it once. -/
theorem matching_rows_length_le_one (w : Command) : (opcodeTable.filter fun r => r.hits w).length ≤ 1 := by
  have hnodup : (opcodeTable.filter fun r => r.hits w).Nodup := (List.Nodup.of_map _ unitOp_nodup).filter _
  have hsame : ∀ r ∈ opcodeTable.filter fun r => r.hits w, ∀ r' ∈ opcodeTable.filter fun r => r.hits w, r = r' := by
    intro r hr r' hr'
    obtain ⟨hr, hm⟩ := List.mem_filter.mp hr
    obtain ⟨hr', hm'⟩ := List.mem_filter.mp hr'
    exact row_eq_of_match hr hr' ((r.hits_iff w).mp hm) ((r'.hits_iff w).mp hm')
  by_contra hlen
  rw [not_le] at hlen
  have h01 := hsame _ (List.getElem_mem (Nat.zero_lt_of_lt hlen)) _ (List.getElem_mem hlen)
  exact absurd (hnodup.getElem_inj_iff.mp h01) Nat.zero_ne_one

/-! ### Illegal words (30_encoding.md R106) -/

theorem unitOp_toNat (w : Command) : (field w 48 16).toNat = 256 * (field w 56 8).toNat + (field w 48 8).toNat := by
  simp only [field, BitVec.extractLsb'_toNat, Nat.shiftRight_eq_div_pow]
  omega

/-- The values of UNIT and OP together that the table's rows have. -/
theorem mem_unitOps_iff (n : Nat) :
    (∃ r ∈ opcodeTable, (field r.mtch 48 16).toNat = n) ↔
      (256 ≤ n ∧ n ≤ 264) ∨ (768 ≤ n ∧ n ≤ 769) ∨ (512 ≤ n ∧ n ≤ 517) := by
  have hkeys : opcodeTable.map (fun r => (field r.mtch 48 16).toNat) =
      List.range' 256 9 ++ List.range' 768 2 ++ List.range' 512 6 := by decide
  rw [← List.mem_map, hkeys]
  simp only [List.mem_append, List.mem_range'_1]
  omega

/-- A row has the UNIT and OP of a word exactly when OP is one the UNIT defines. -/
theorem exists_row_unitOp_iff (w : Command) :
    (∃ r ∈ opcodeTable, field w 48 16 = field r.mtch 48 16) ↔ (field w 48 8).toNat < opCount (field w 56 8) := by
  simp only [eq_comm (a := field w 48 16), ← BitVec.toNat_inj]
  rw [mem_unitOps_iff, unitOp_toNat, opCount]
  simp only [← BitVec.toNat_inj, BitVec.ofNat_eq_ofNat, BitVec.toNat_ofNat]
  have hop := (field w 48 8).isLt
  split_ifs <;> omega

/-- The first four classes of 30_encoding.md R106: the UNIT is unknown, or the OP is above the last it defines. -/
theorem opCount_le_iff (unit op : Byte) :
    opCount unit ≤ op.toNat ↔
      (unit ≠ 1 ∧ unit ≠ 2 ∧ unit ≠ 3) ∨ (unit = 1 ∧ 8 < op.toNat) ∨ (unit = 2 ∧ 5 < op.toNat) ∨
        (unit = 3 ∧ 1 < op.toNat) := by
  simp only [opCount, ne_eq, ← BitVec.toNat_inj, BitVec.ofNat_eq_ofNat, BitVec.toNat_ofNat]
  split_ifs <;> omega

/-- A word matches no row exactly when no row has its UNIT and OP, or the row that has them fixes a bit it lacks. -/
theorem no_row_matches_iff (w : Command) :
    (∀ r ∈ opcodeTable, w &&& r.mask ≠ r.mtch) ↔
      opCount (field w 56 8) ≤ (field w 48 8).toNat ∨
        ∃ r ∈ opcodeTable, field w 48 16 = field r.mtch 48 16 ∧ w &&& r.mask ≠ r.mtch := by
  constructor
  · intro h
    rcases Nat.lt_or_ge (field w 48 8).toNat (opCount (field w 56 8)) with hlt | hle
    · obtain ⟨r, hr, hkey⟩ := (exists_row_unitOp_iff w).mpr hlt
      exact .inr ⟨r, hr, hkey, h r hr⟩
    · exact .inl hle
  · rintro (hle | ⟨r, hr, hkey, hne⟩) r' hr' hm
    · exact absurd ((exists_row_unitOp_iff w).mp ⟨r', hr', unitOp_of_match hr' hm⟩) (by omega)
    · obtain rfl := row_eq_of_unitOp_eq hr hr' (hkey.symm.trans (unitOp_of_match hr' hm))
      exact hne hm

/-! ### Decoding an encoded operation -/

@[simp] theorem field_place {n : Nat} (v : BitVec n) (lo : Nat) (h : lo + n ≤ 64) : field (place v lo) lo n = v := by
  apply BitVec.eq_of_getLsbD_eq
  intro i hi
  simp [field, place, hi, show lo + i < 64 by omega]

@[simp] theorem field_place_of_disjoint {n : Nat} (v : BitVec n) (lo lo' len : Nat)
    (h : lo + n ≤ lo' ∨ lo' + len ≤ lo) : field (place v lo) lo' len = 0#len := by
  apply BitVec.eq_of_getLsbD_eq
  intro i hi
  rcases h with h | h
  · simp [field, place, BitVec.getLsbD_of_ge v (lo' + i - lo) (by omega)]
  · simp [field, place, show lo' + i < lo by omega]

/-- The opcode of a row has no bit in an operand field: `simp` computes the hypothesis. -/
@[simp] theorem field_eq_zero {w : Command} {lo len : Nat} (h : w.extractLsb' lo len = 0#len) : field w lo len = 0#len :=
  h

@[simp] theorem getElem_place {n : Nat} (v : BitVec n) (lo k : Nat) (hk : k < 64) :
    (place v lo)[k] = (decide (lo ≤ k) && v.getLsbD (k - lo)) := by
  rw [place, BitVec.getElem_shiftLeft]
  by_cases h : lo ≤ k
  · simp [h]
  · simp [h]

/-- An operation's word decodes to it when row `k` fixes the operation's bits and builds it back. -/
theorem decode_encode_of_row {i : Instr} (k : Nat) (hk : k < opcodeTable.length)
    (hrow : Laws.rowMask i = (opcodeTable[k].mask, opcodeTable[k].mtch)) (hbits : Laws.RowBits.Statement i)
    (hbuild : opcodeTable[k].build (encode i) = i) : decode (encode i) = .ok i := by
  rw [Laws.RowBits.Statement, hrow] at hbits
  exact (decode_eq_ok_iff _ i).mpr ⟨opcodeTable[k], List.getElem_mem hk, hbits, hbuild⟩

theorem decode_encode_clkState (src : BitVec 3) (state : BitVec 2) :
    decode (encode (.clkState src state)) = .ok (.clkState src state) := by
  refine decode_encode_of_row 0 (by decide) rfl (Laws.RowBits.clkState src state) ?_
  simp [opcodeTable, rccRows, encode]

theorem decode_encode_pllCfg (m : BitVec 6) (n : BitVec 9) (p psrc : BitVec 2) (q : BitVec 4) (r : BitVec 3)
    (nul : Bool) : decode (encode (.pllCfg m n p psrc q r nul)) = .ok (.pllCfg m n p psrc q r nul) := by
  refine decode_encode_of_row 1 (by decide) rfl (Laws.RowBits.pllCfg m n p psrc q r nul) ?_
  simp [opcodeTable, rccRows, encode, BitVec.getLsbD_of_ge]

theorem decode_encode_ahbPre (code : Byte) : decode (encode (.ahbPre code)) = .ok (.ahbPre code) := by
  refine decode_encode_of_row 4 (by decide) rfl (Laws.RowBits.ahbPre code) ?_
  simp [opcodeTable, rccRows, encode]

theorem decode_encode_apb1Pre (code : Byte) : decode (encode (.apb1Pre code)) = .ok (.apb1Pre code) := by
  refine decode_encode_of_row 5 (by decide) rfl (Laws.RowBits.apb1Pre code) ?_
  simp [opcodeTable, rccRows, encode]

theorem decode_encode_apb2Pre (code : Byte) : decode (encode (.apb2Pre code)) = .ok (.apb2Pre code) := by
  refine decode_encode_of_row 6 (by decide) rfl (Laws.RowBits.apb2Pre code) ?_
  simp [opcodeTable, rccRows, encode]

theorem decode_encode_periphEn (bus : BitVec 3) {bit : Nat} (h : bit < 2 ^ 8) :
    decode (encode (.periphEn bus bit)) = .ok (.periphEn bus bit) := by
  refine decode_encode_of_row 7 (by decide) rfl (Laws.RowBits.periphEn bus bit) ?_
  simpa [opcodeTable, rccRows, encode] using h

theorem decode_encode_periphDis (bus : BitVec 3) {bit : Nat} (h : bit < 2 ^ 8) :
    decode (encode (.periphDis bus bit)) = .ok (.periphDis bus bit) := by
  refine decode_encode_of_row 8 (by decide) rfl (Laws.RowBits.periphDis bus bit) ?_
  simpa [opcodeTable, rccRows, encode] using h

end Sys2Proof

namespace Sys2Proof.Machine

/-! ### The error results of reserved field values (30_encoding.md R107) -/

/-- An operation that ends from a state with the same host part and program obeys the host rule. -/
theorem returned_finish (r : Result) {s u : State} (hhost : u.host = s.host) (hprog : u.prog = s.prog) :
    Returned r s (u.finish r) := by
  constructor <;> simp only [State.finish, hhost, hprog]

theorem srcOfCode_eq_none_iff (c : BitVec 3) : srcOfCode c = none ↔ 5 ≤ c.toNat := by
  revert c; decide

theorem onOffOfCode_eq_none_iff (c : BitVec 2) : onOffOfCode c = none ↔ 2 ≤ c.toNat := by
  revert c; decide

theorem pllSrcOfCode_eq_none_iff (c : BitVec 2) : pllSrcOfCode c = none ↔ 2 ≤ c.toNat := by
  revert c; decide

theorem busOfCode_eq_none_iff (c : BitVec 3) : busOfCode c = none ↔ 5 ≤ c.toNat := by
  revert c; decide

theorem execClkState_first (src : BitVec 3) (state : BitVec 2) {s : State} (hop : s.host.op = none) :
    execClkState src state s = .next (clkFirst src state s) := by
  simp only [execClkState, hop]

/-- A reserved SRC makes SetClockState return InvalidClockType, whatever the state field holds. -/
theorem execClkState_invalid_source {src : BitVec 3} (state : BitVec 2) {s : State} (hop : s.host.op = none)
    (hsrc : 5 ≤ src.toNat) : execClkState src state s = .next (s.finish .invalidClockType) := by
  rw [execClkState_first src state hop, clkFirst, (srcOfCode_eq_none_iff src).mpr hsrc]

/-- A reserved STATE of a source makes SetClockState return InvalidClockState. -/
theorem execClkState_invalid_state {src : BitVec 3} {state : BitVec 2} {s : State} (hop : s.host.op = none)
    (hsrc : src.toNat ≤ 4) (hstate : 2 ≤ state.toNat) :
    execClkState src state s = .next (s.finish .invalidClockState) := by
  obtain ⟨x, hx⟩ := Option.ne_none_iff_exists'.mp (mt (srcOfCode_eq_none_iff src).mp (by omega))
  simp only [execClkState_first src state hop, clkFirst, hx, (onOffOfCode_eq_none_iff state).mpr hstate]

/-- A reserved PSRC makes SetPLLConfig return InvalidPLLSource, after it wrote the divider fields. -/
theorem execPllCfg_invalid_source (m : BitVec 6) (n : BitVec 9) (p : BitVec 2) {psrc : BitVec 2} (q : BitVec 4)
    (r : BitVec 3) {s : State} (hsrc : 2 ≤ psrc.toNat) (hlive : anyPllLive s = false) :
    execPllCfg m n p psrc q r false s = .next ((s.setPllFields m n p q r).finish .invalidPllSource) := by
  simp [execPllCfg, hlive, (pllSrcOfCode_eq_none_iff psrc).mpr hsrc]

/-- A reserved BUS makes a gate operation return InvalidBus. -/
theorem gate_invalid_bus {bus : BitVec 3} (bit : Nat) (bad : Result) (write : Bus → State → State) (s : State)
    (hbus : 5 ≤ bus.toNat) : gate bus bit bad write s = s.finish .invalidBus := by
  rw [gate, (busOfCode_eq_none_iff bus).mpr hbus]

/-- A bit outside the legal set of its bus makes a gate operation return its error. -/
theorem gate_illegal_bit {bus : BitVec 3} {b : Bus} {bit : Nat} (bad : Result) (write : Bus → State → State)
    {s : State} (hbus : busOfCode bus = some b) (hbit : legalBit s.params b bit = false) :
    gate bus bit bad write s = s.finish bad := by
  simp [gate, hbus, hbit]

/-- A code outside the legal set of its bus makes a prescaler operation return InvalidPrescaler. -/
theorem prescale_illegal_code {b : PrescBus} {code : Byte} (write : State → State) {s : State}
    (h : code ∉ prescLegal s.params b) : prescale b code write s = s.finish (.invalidPrescaler b) := by
  obtain ⟨hmem, -⟩ | ⟨-, hp⟩ := prescale_cases b code write s
  · exact absurd hmem h
  · exact hp

/-- Settles O6: every operation encodes and decodes, and at a reserved value its first check answers. -/
theorem reservedFieldValuesReturnErrors : Obligations.ReservedFieldValuesReturnErrors := by
  refine ⟨fun src state s hop hsrc => ⟨decode_encode_clkState src state, _,
      execClkState_invalid_source state hop hsrc, returned_finish _ rfl rfl⟩,
    fun src state s hop hsrc hstate => ⟨decode_encode_clkState src state, _,
      execClkState_invalid_state hop hsrc hstate, returned_finish _ rfl rfl⟩,
    fun m n p psrc q r s hsrc hlive => ⟨decode_encode_pllCfg m n p psrc q r false, _,
      execPllCfg_invalid_source m n p q r hsrc hlive, returned_finish _ rfl rfl⟩,
    fun m n p psrc q r s => ⟨decode_encode_pllCfg m n p psrc q r true, _, rfl, returned_finish _ rfl rfl⟩,
    fun bus bit s hbus hbit => ⟨decode_encode_periphEn bus hbit, decode_encode_periphDis bus hbit, ?_, ?_⟩,
    fun bus b bit s hbus hbit hillegal => ⟨decode_encode_periphEn bus hbit, decode_encode_periphDis bus hbit, ?_, ?_⟩,
    fun code s => ⟨decode_encode_ahbPre code, decode_encode_apb1Pre code, decode_encode_apb2Pre code, ?_, ?_, ?_⟩⟩
  · exact ⟨_, congrArg Host.Outcome.next (gate_invalid_bus bit _ _ s hbus), returned_finish _ rfl rfl⟩
  · exact ⟨_, congrArg Host.Outcome.next (gate_invalid_bus bit _ _ s hbus), returned_finish _ rfl rfl⟩
  · exact ⟨_, congrArg Host.Outcome.next (gate_illegal_bit _ _ hbus hillegal), returned_finish _ rfl rfl⟩
  · exact ⟨_, congrArg Host.Outcome.next (gate_illegal_bit _ _ hbus hillegal), returned_finish _ rfl rfl⟩
  · exact fun h => ⟨_, congrArg Host.Outcome.next (prescale_illegal_code (b := .ahb) _ h), returned_finish _ rfl rfl⟩
  · exact fun h => ⟨_, congrArg Host.Outcome.next (prescale_illegal_code (b := .apb1) _ h), returned_finish _ rfl rfl⟩
  · exact fun h => ⟨_, congrArg Host.Outcome.next (prescale_illegal_code (b := .apb2) _ h), returned_finish _ rfl rfl⟩

/-! ### Words that decode to no operation (30_encoding.md R91, R106) -/

/-- The host refuses a word that decodes to no operation, and nothing else changes but the choice taken. -/
theorem step_of_decode_error {s : State} {w : Command} {e : DecodeError} (hm : s.choice.move = none)
    (hr : s.hostRuns = true) (hf : s.fetch = some w) (hd : decode w = .error e) :
    step s = .next (s.raise .invalidCommand).advance := by
  simp only [step, hm, hostTurn, hr, if_true, hf, runCommand, hd, mapNext]

/-- Settles O3: UNIT and OP tell the row, and the two reserved codes are those of `reservedFieldValuesReturnErrors`. -/
theorem decodesExactlyByRow : Obligations.DecodesExactlyByRow := by
  obtain ⟨hsrc, -, -, -, hbus, -⟩ := reservedFieldValuesReturnErrors
  refine ⟨decode_eq_ok_iff, matching_rows_length_le_one, fun s w hm hr hf hno => ?_,
    fun s state hop => hsrc 5 state s hop (by decide), fun s bit hbit => ?_⟩
  · obtain ⟨e, hd⟩ := (decode_eq_error_iff w).mpr hno
    exact step_of_decode_error hm hr hf hd
  · obtain ⟨hdec, -, hret, -⟩ := hbus 7 bit s (by decide) hbit
    exact ⟨hdec, hret⟩

/-- Settles O4: the classes are those of the words that match no row. -/
theorem illegalWordsRejected : Obligations.IllegalWordsRejected := by
  refine ⟨fun w => ?_, fun s w e hm hr hf hd => step_of_decode_error hm hr hf hd⟩
  rw [decode_eq_error_iff, no_row_matches_iff, opCount_le_iff, or_assoc, or_assoc, or_assoc]

end Sys2Proof.Machine

namespace Sys2Proof.Machine

/-! ### The row of an operation (30_encoding.md R91)

The rows build operations of different names, whatever the operand bits, so a word that decodes to an operation a row
builds matches that row. -/

/-- No two rows of the opcode table build operations of the same name. -/
theorem opOf_build_nodup (w : Command) : (opcodeTable.map fun r => opOf (r.build w)).Nodup :=
  (by decide : (opcodeTable.map fun r => opOf (r.build 0)).Nodup)

theorem decodesTo_of_mem {r : Row} (hr : r ∈ opcodeTable) : DecodesTo r.mask r.mtch r.build := by
  intro w
  rw [decode_eq_ok_iff]
  constructor
  · exact fun hm => ⟨r, hr, hm, rfl⟩
  · rintro ⟨r', hr', hm, hbuild⟩
    obtain rfl := List.inj_on_of_nodup_map (opOf_build_nodup w) hr' hr (congrArg opOf hbuild)
    exact hm

/-- The words of the operation in row `k` of the opcode table. -/
theorem decodesTo_row (k : Nat) (hk : k < opcodeTable.length) :
    DecodesTo opcodeTable[k].mask opcodeTable[k].mtch opcodeTable[k].build :=
  decodesTo_of_mem (List.getElem_mem hk)

/-! ### The end of an RCC step in the terms of the rules (60_exceptions.md R232, 10_state.md R40) -/

/-- An operation that writes the RCC part and returns. -/
theorem ends_finish (r : Result) (rcc : Rcc) (s : State) :
    Ends r rcc s.i2c [] s (({ s with rcc := rcc } : State).finish r) where
  returned := returned_finish r rfl rfl
  rcc := rfl
  i2c := rfl
  wire := (List.append_nil s.wire).symm
  rest := ⟨rfl, fun _ => rfl, rfl, rfl, rfl, rfl, rfl⟩

/-- An operation that writes the RCC part and goes on. -/
theorem continues_goOn (p : Position) (rcc : Rcc) (s : State) :
    Continues p rcc s.i2c [] s (({ s with rcc := rcc } : State).goOn p) where
  op := rfl
  pc := rfl
  status := rfl
  res := rfl
  rcc := rfl
  i2c := rfl
  wire := (List.append_nil s.wire).symm
  rest := ⟨rfl, fun _ => rfl, rfl, rfl, rfl, rfl, rfl⟩

/-! ### SetClockState and the clock-enable state machine (40_rcc_clock.md R120, R124) -/

theorem toNat_le_of_srcOfCode {src : BitVec 3} {x : Src} (h : srcOfCode src = some x) : src.toNat ≤ 4 := by
  have hne : srcOfCode src ≠ none := h ▸ Option.some_ne_none x
  rw [ne_eq, srcOfCode_eq_none_iff] at hne
  omega

section
variable {src : BitVec 3} {state : BitVec 2} {x : Src} {s : State}

theorem execClkState_off_inUse (hop : s.host.op = none) (hx : srcOfCode src = some x)
    (hoff : onOffOfCode state = some false) (hu : inUse s x = true) :
    execClkState src state s = .next (s.raise .disableInUse) := by
  simp only [execClkState_first src state hop, clkFirst, hx, hoff, clkOff, hu, if_true]

theorem execClkState_off (hop : s.host.op = none) (hx : srcOfCode src = some x)
    (hoff : onOffOfCode state = some false) (hu : inUse s x = false) :
    execClkState src state s = .next (((s.setOn x false).setClk x .disabled).finish .ok) := by
  simp [execClkState_first src state hop, clkFirst, hx, hoff, clkOff, hu]

theorem execClkState_on (hop : s.host.op = none) (hx : srcOfCode src = some x) (hon : onOffOfCode state = some true) :
    execClkState src state s = .next (((s.setOn x true).setClk x .enabling).goOn (.clkPoll x 0)) := by
  simp only [execClkState_first src state hop, clkFirst, hx, hon, clkOn]

/-- At a poll the operand fields have no part: the position names the polled source. -/
theorem execClkState_poll (src : BitVec 3) (state : BitVec 2) {k : Nat} (hop : s.host.op = some (.clkPoll x k)) :
    execClkState src state s = .next (clkPoll x k s) := by
  simp only [execClkState, hop]

theorem clkPoll_of_ready (k : Nat) (hr : s.rcc.rdy.get x = true) :
    clkPoll x k s = (s.setClk x .ready).finish .ok := by
  simp [clkPoll, hr]

theorem clkPoll_at_ceiling {k : Nat} (hr : s.rcc.rdy.get x = false) (hk : s.params.ceil ≤ k + 1) :
    clkPoll x k s = (s.setClk x .timedOut).finish .timeout := by
  simp [clkPoll, hr, hk]

theorem clkPoll_before_ceiling {k : Nat} (hr : s.rcc.rdy.get x = false) (hk : k + 1 < s.params.ceil) :
    clkPoll x k s = s.goOn (.clkPoll x (k + 1)) := by
  simp [clkPoll, hr, Nat.not_le.mpr hk]

end

/-- Settles O25: the row, then one lemma for each branch of the first step and of a poll. -/
theorem setClockState : Obligations.SetClockState := by
  refine ⟨decodesTo_row 0 (by decide), fun src state s hop => ⟨fun hsrc => ?type, fun x hx => ⟨fun hstate => ?state,
    ?inUse, ?off, ?on⟩⟩, fun src state x k s hop => ?poll⟩
  case type => exact ⟨_, execClkState_invalid_source state hop hsrc, ends_finish _ _ s⟩
  case state =>
    exact ⟨_, execClkState_invalid_state hop (toNat_le_of_srcOfCode hx) hstate, ends_finish _ _ s⟩
  case inUse =>
    rintro rfl hu
    exact execClkState_off_inUse hop hx rfl hu
  case off =>
    rintro rfl hu
    exact ⟨_, execClkState_off hop hx rfl hu, ends_finish _ _ s⟩
  case on =>
    rintro rfl
    exact ⟨_, execClkState_on hop hx rfl, continues_goOn _ _ s⟩
  case poll =>
    have hpoll : exec (.clkState src state) s = .next (clkPoll x k s) := execClkState_poll src state hop
    refine ⟨fun hr => ?_, fun hr hk => ?_, fun hr hk => ?_⟩
    · rw [clkPoll_of_ready k hr] at hpoll
      exact ⟨_, hpoll, ends_finish _ _ s⟩
    · rw [clkPoll_at_ceiling hr hk.ge] at hpoll
      exact ⟨_, hpoll, ends_finish _ _ s⟩
    · rw [clkPoll_before_ceiling hr hk] at hpoll
      exact ⟨_, hpoll, continues_goOn _ _ s⟩

@[simp] theorem envMove_clk (m : Move) (s : State) : (envMove m s).rcc.clk = s.rcc.clk := by
  unfold envMove
  split
  · cases m <;> rfl
  · rfl

/-- Settles O26: the reset row is that of `resetValues`, each row of a step is a branch of `setClockState`, and no
autonomous move writes a phase. -/
theorem clockEnableMachine : Obligations.ClockEnableMachine := by
  obtain ⟨-, hfirst, hpoll⟩ := setClockState
  refine fun x => ⟨fun prog mem params script => ?reset, fun src s hx hop hu => ?off, fun src s hx hop => ?on,
    fun src k s _ hop hr => ?ready, fun src k s _ hop hr hk => ?timedOut, fun src k s hclk hop hr hk => ?stays,
    fun m s => by rw [envMove_clk]⟩
  case reset =>
    obtain ⟨hsrc, -⟩ := resetValues prog mem params script _ rfl
    obtain ⟨-, -, hclk⟩ := hsrc x
    exact hclk
  case off =>
    obtain ⟨-, hvalid⟩ := hfirst src 0 s hop
    obtain ⟨-, -, hoff, -⟩ := hvalid x hx
    obtain ⟨t, ht, hends⟩ := hoff rfl hu
    exact ⟨t, ht, by rw [hends.rcc, PerSrc.get_set_same], hends.returned⟩
  case on =>
    obtain ⟨-, hvalid⟩ := hfirst src 1 s hop
    obtain ⟨-, -, -, hon⟩ := hvalid x hx
    obtain ⟨t, ht, hgoes⟩ := hon rfl
    exact ⟨t, ht, by rw [hgoes.rcc, PerSrc.get_set_same], hgoes.op⟩
  case ready =>
    obtain ⟨hready, -⟩ := hpoll src 1 x k s hop
    obtain ⟨t, ht, hends⟩ := hready hr
    exact ⟨t, ht, by rw [hends.rcc, PerSrc.get_set_same], hends.returned⟩
  case timedOut =>
    obtain ⟨-, htimeout, -⟩ := hpoll src 1 x k s hop
    obtain ⟨t, ht, hends⟩ := htimeout hr hk
    exact ⟨t, ht, by rw [hends.rcc, PerSrc.get_set_same], hends.returned⟩
  case stays =>
    obtain ⟨-, -, hmore⟩ := hpoll src 1 x k s hop
    obtain ⟨t, ht, hgoes⟩ := hmore hr hk
    exact ⟨t, ht, by rw [hgoes.rcc, hclk], hgoes.op⟩

/-! ### SetPLLConfig (40_rcc_clock.md R121) -/

/-- No PLL is live exactly when all three are off with their flags clear (10_state.md R29). -/
theorem anyPllLive_eq_false_iff (s : State) :
    anyPllLive s = false ↔
      ∀ p ∈ [Src.pll, Src.plli2s, Src.pllsai], s.rcc.on.get p = false ∧ s.rcc.rdy.get p = false := by
  rw [← Bool.not_eq_true, anyPllLive_iff]
  simp only [not_exists, not_and, not_or, Bool.not_eq_true]

section
variable (m : BitVec 6) (n : BitVec 9) (p psrc : BitVec 2) (q : BitVec 4) (r : BitVec 3) {s : State}

theorem execPllCfg_live (hlive : anyPllLive s = true) :
    execPllCfg m n p psrc q r false s = .next (s.raise .pllConfigWhileEnabled) := by
  simp [execPllCfg, hlive]

theorem execPllCfg_valid_source {v : BitVec 1} (hsrc : pllSrcOfCode psrc = some v) (hlive : anyPllLive s = false) :
    execPllCfg m n p psrc q r false s = .next (((s.setPllFields m n p q r).setPllSrc v).finish .ok) := by
  simp [execPllCfg, hlive, hsrc]

end

/-- Settles O29: the row, the two checks, then the three kinds of PSRC: HSI, HSE and the reserved codes. -/
theorem setPllConfig : Obligations.SetPllConfig := by
  refine ⟨decodesTo_row 1 (by decide), fun m n p psrc q r s => ⟨⟨_, rfl, ends_finish _ _ s⟩,
    fun hlive => execPllCfg_live m n p psrc q r ((anyPllLive_iff s).mpr hlive), fun hoff => ?_⟩⟩
  have hlive := (anyPllLive_eq_false_iff s).mpr hoff
  obtain rfl | rfl | hreserved : psrc = 0 ∨ psrc = 1 ∨ 2 ≤ psrc.toNat := by bv_omega
  · exact ⟨_, execPllCfg_valid_source m n p 0 q r rfl hlive, ends_finish _ _ s⟩
  · exact ⟨_, execPllCfg_valid_source m n p 1 q r rfl hlive, ends_finish _ _ s⟩
  · have h0 : psrc ≠ 0 := by bv_omega
    have h1 : psrc ≠ 1 := by bv_omega
    rw [if_neg (Nat.not_le.mpr hreserved), if_neg h0, if_neg h1]
    exact ⟨_, execPllCfg_invalid_source m n p q r hreserved hlive, ends_finish _ _ s⟩

/-! ### The SYSCLK operations (40_rcc_clock.md R122, R123) -/

/-- Settles O30: the row and the one branch; a source that `sw` selects is in use by the first way of `inUse_iff`. -/
theorem setSystemClock : Obligations.SetSystemClock :=
  ⟨decodesTo_row 2 (by decide), fun _ s => ⟨_, rfl, ends_finish _ _ s, (inUse_iff _ _).mpr (.inl rfl)⟩⟩

/-- Settles O31: the row and the one branch, which writes the host part alone. -/
theorem getSystemClock : Obligations.GetSystemClock :=
  ⟨decodesTo_row 3 (by decide), fun _ =>
    ⟨_, rfl, ⟨rfl, rfl, rfl, rfl⟩, rfl, rfl, rfl, rfl, fun _ => rfl, rfl, rfl⟩⟩

end Sys2Proof.Machine

namespace Sys2Proof.Machine

/-! ### The bus prescalers (41_rcc_bus.md R140 to R142) -/

theorem prescale_ends_of_legal {b : PrescBus} {code : Byte} {write : State → State} {s : State} (rcc : Rcc)
    (h : code ∈ prescLegal s.params b) (hw : write s = { s with rcc := rcc }) :
    Ends .ok rcc s.i2c [] s (prescale b code write s) := by
  obtain ⟨-, hp⟩ | ⟨hnot, -⟩ := prescale_cases b code write s
  · rw [hp, hw]
    exact ends_finish .ok rcc s
  · exact absurd h hnot

theorem prescale_ends_of_illegal {b : PrescBus} {code : Byte} {write : State → State} {s : State}
    (h : code ∉ prescLegal s.params b) :
    Ends (.invalidPrescaler b) s.rcc s.i2c [] s (prescale b code write s) := by
  rw [prescale_illegal_code write h]
  exact ends_finish _ _ s

/-- Settles O33: the three rows, the two branches of each operation, and the bounds on the admitted codes. -/
theorem setBusPrescaler : Obligations.SetBusPrescaler := by
  refine ⟨decodesTo_row 4 (by decide), decodesTo_row 5 (by decide), decodesTo_row 6 (by decide),
    fun code s => ⟨fun h => ?ahb, fun h => ?ahbNot, fun h => ?apb1, fun h => ?apb1Not, fun h => ?apb2,
      fun h => ?apb2Not⟩, fun code params hwf => ?bounds⟩
  case ahb => exact ⟨_, rfl, prescale_ends_of_legal (b := .ahb) _ h rfl⟩
  case ahbNot => exact ⟨_, rfl, prescale_ends_of_illegal (b := .ahb) h⟩
  case apb1 => exact ⟨_, rfl, prescale_ends_of_legal (b := .apb1) _ h rfl⟩
  case apb1Not => exact ⟨_, rfl, prescale_ends_of_illegal (b := .apb1) h⟩
  case apb2 => exact ⟨_, rfl, prescale_ends_of_legal (b := .apb2) _ h rfl⟩
  case apb2Not => exact ⟨_, rfl, prescale_ends_of_illegal (b := .apb2) h⟩
  case bounds =>
    obtain ⟨-, hahb, hapb1, hapb2, -⟩ := hwf
    exact ⟨fun hc h => (hahb code h).not_gt hc,
      fun hc => ⟨fun h => (hapb1 code h).not_gt hc, fun h => (hapb2 code h).not_gt hc⟩⟩

/-! ### The peripheral clock gates (41_rcc_bus.md R143, R144) -/

/-- A set bit of a word lies inside it, so the bit arithmetic of `getLsbD_setBit` applies. -/
theorem setBit_eq_self {w : Word} {k : Nat} (h : w.getLsbD k = true) : setBit w k = w := by
  have hk : k < 32 := BitVec.lt_of_getLsbD h
  apply BitVec.eq_of_getLsbD_eq
  intro j _
  rw [getLsbD_setBit w (by omega)]
  split
  case isTrue hj => rw [hj, h]
  case isFalse => rfl

/-- A bit number past the word shifts the 1 out, and then nothing is cleared. -/
theorem clearBit_eq_self {w : Word} {k : Nat} (h : w.getLsbD k = false) : clearBit w k = w := by
  by_cases hk : k ≤ 31
  · apply BitVec.eq_of_getLsbD_eq
    intro j _
    rw [getLsbD_clearBit w hk]
    split
    case isTrue hj => rw [hj, h]
    case isFalse => rfl
  · have hout : 1#32 <<< k = 0#32 := BitVec.shiftLeft_eq_zero (by omega)
    rw [clearBit, hout, BitVec.not_zero, BitVec.and_allOnes]

@[simp] theorem PerBus.set_get_self {α : Type} (f : PerBus α) (b : Bus) : f.set b (f.get b) = f := by
  cases b <;> rfl

/-- The refusal's condition in the terms of 41_rcc_bus.md R144. -/
theorem stopsMaster_iff (b : Bus) (bit : Nat) (s : State) :
    stopsMaster b bit s = true ↔ b = .apb1 ∧ bit = 20 + instNumber s.params.i2cInst ∧ s.i2c.role ≠ .idle := by
  simp [stopsMaster, i2cGateBit, and_assoc]

section
variable {bus : BitVec 3} {b : Bus} {bit : Nat} {s : State}

theorem gate_ends_of_invalid_bus (bad : Result) (write : Bus → State → State) (hbus : 4 < bus.toNat) :
    Ends .invalidBus s.rcc s.i2c [] s (gate bus bit bad write s) := by
  rw [gate_invalid_bus bit bad write s hbus]
  exact ends_finish _ _ s

theorem gate_ends_of_illegal_bit (bad : Result) (write : Bus → State → State) (hbus : busOfCode bus = some b)
    (hbit : legalBit s.params b bit = false) : Ends bad s.rcc s.i2c [] s (gate bus bit bad write s) := by
  rw [gate_illegal_bit bad write hbus hbit]
  exact ends_finish _ _ s

theorem gate_legal_bit (bad : Result) (write : Bus → State → State) (hbus : busOfCode bus = some b)
    (hbit : legalBit s.params b bit = true) : gate bus bit bad write s = write b s := by
  simp only [gate, hbus, hbit, if_true]

theorem execPeriphEn_sets (hbus : busOfCode bus = some b) (hbit : legalBit s.params b bit = true) :
    execPeriphEn bus bit s = .next ((s.setEnr b (setBit (s.rcc.enr.get b) bit)).finish .ok) :=
  congrArg Host.Outcome.next (gate_legal_bit _ _ hbus hbit)

theorem execPeriphDis_refused (hbus : busOfCode bus = some b) (hbit : legalBit s.params b bit = true)
    (hstops : stopsMaster b bit s = true) : execPeriphDis bus bit s = .next (s.raise .gateOffWhileMaster) :=
  congrArg Host.Outcome.next ((gate_legal_bit _ _ hbus hbit).trans (if_pos hstops))

theorem execPeriphDis_clears (hbus : busOfCode bus = some b) (hbit : legalBit s.params b bit = true)
    (hstops : ¬ stopsMaster b bit s = true) :
    execPeriphDis bus bit s = .next ((s.setEnr b (clearBit (s.rcc.enr.get b) bit)).finish .ok) :=
  congrArg Host.Outcome.next ((gate_legal_bit _ _ hbus hbit).trans (if_neg hstops))

/-- The RCC part after a gate word is written with the value it has. -/
theorem setEnr_finish_rcc_of_eq {v : Word} (r : Result) (hv : v = s.rcc.enr.get b) :
    ((s.setEnr b v).finish r).rcc = s.rcc := by
  simp [hv, State.setEnr]

end

/-- Settles O34: the row, the two checks in order, and the write, which `setBit_eq_self` makes void on a set bit. -/
theorem enablePeripheral : Obligations.EnablePeripheral := by
  refine ⟨decodesTo_row 7 (by decide), fun bus bit s => ⟨fun hbus => ?invalidBus, fun b hbus => ⟨fun hbit => ?illegal,
    fun hbit => ?set⟩⟩⟩
  case invalidBus => exact ⟨_, rfl, gate_ends_of_invalid_bus _ _ hbus⟩
  case illegal => exact ⟨_, rfl, gate_ends_of_illegal_bit _ _ hbus hbit⟩
  case set =>
    exact ⟨_, execPeriphEn_sets hbus hbit, ends_finish _ _ s,
      fun hset => setEnr_finish_rcc_of_eq _ (setBit_eq_self hset)⟩

/-- Settles O35: the row, the two checks in order, the refusal where `stopsMaster` holds, and else the write, which
`clearBit_eq_self` makes void on a clear bit. -/
theorem disablePeripheral : Obligations.DisablePeripheral := by
  refine ⟨decodesTo_row 8 (by decide), fun bus bit s => ⟨fun hbus => ?invalidBus, fun b hbus => ⟨fun hbit => ?illegal,
    fun hbit hb hgate hrole => ?refused, fun hbit hfree => ?clear⟩⟩⟩
  case invalidBus => exact ⟨_, rfl, gate_ends_of_invalid_bus _ _ hbus⟩
  case illegal => exact ⟨_, rfl, gate_ends_of_illegal_bit _ _ hbus hbit⟩
  case refused => exact execPeriphDis_refused hbus hbit ((stopsMaster_iff b bit s).mpr ⟨hb, hgate, hrole⟩)
  case clear =>
    have hstops : ¬ stopsMaster b bit s = true := by
      rw [stopsMaster_iff]
      tauto
    exact ⟨_, execPeriphDis_clears hbus hbit hstops, ends_finish _ _ s,
      fun hclear => setEnr_finish_rcc_of_eq _ (clearBit_eq_self hclear)⟩

/-! ### The legal bits (41_rcc_bus.md R145) -/

theorem BitRange.holds_iff (r : BitRange) (bit : Nat) : BitRange.holds r bit = true ↔ r.lo ≤ bit ∧ bit ≤ r.hi := by
  simp only [BitRange.holds, Bool.and_eq_true, decide_eq_true_eq]

/-- Settles O36: three buses have a range, and two a set of two bits. -/
theorem legalBits : Obligations.LegalBits := fun _ bit =>
  ⟨BitRange.holds_iff _ bit, List.contains_iff_mem.trans List.mem_pair, List.contains_iff_mem.trans List.mem_pair,
    BitRange.holds_iff _ bit, BitRange.holds_iff _ bit⟩

end Sys2Proof.Machine

namespace Sys2Proof.Machine

/-! ### The delay operations (42_delay.md R160, R161) -/

theorem delay_of_in_range {n max : Nat} (s : State) (hpos : 1 ≤ n) (hmax : n ≤ max) :
    delay n max s = s.finish .ok := by
  obtain ⟨-, -, hok⟩ | ⟨hout, -⟩ := delay_cases n max s
  · exact hok
  · omega

theorem delay_of_out_of_range {n max : Nat} (s : State) (hout : n = 0 ∨ max < n) :
    delay n max s = s.raise .delayRange := by
  obtain ⟨hpos, hmax, -⟩ | ⟨-, hrefused⟩ := delay_cases n max s
  · omega
  · exact hrefused

theorem delay_ends_of_in_range {n max : Nat} (s : State) (hpos : 1 ≤ n) (hmax : n ≤ max) :
    Ends .ok s.rcc s.i2c [] s (delay n max s) := by
  rw [delay_of_in_range s hpos hmax]
  exact ends_finish .ok s.rcc s

/-- Settles O38: the two rows, then for each unit the two branches of a delay, with that unit's maximum. -/
theorem delays : Obligations.Delays := by
  refine ⟨decodesTo_row 9 (by decide), decodesTo_row 10 (by decide), fun n s =>
    ⟨fun hpos hmax => ?milliseconds, fun hout => ?millisecondsRefused, fun hpos hmax => ?microseconds,
      fun hout => ?microsecondsRefused⟩⟩
  case milliseconds => exact ⟨_, rfl, delay_ends_of_in_range s hpos hmax⟩
  case millisecondsRefused => exact congrArg Host.Outcome.next (delay_of_out_of_range s hout)
  case microseconds => exact ⟨_, rfl, delay_ends_of_in_range s hpos hmax⟩
  case microsecondsRefused => exact congrArg Host.Outcome.next (delay_of_out_of_range s hout)

end Sys2Proof.Machine

namespace Sys2Proof.Machine

/-! ### The end of an I2C operation in the terms of the rules (60_exceptions.md R232) -/

/-- An operation that writes the I2C part, adds events to the wire and returns. -/
theorem ends_finish_i2c (r : Result) {i2c : I2c} {events : List WireEvent} {s u : State}
    (hu : u = { s with i2c := i2c, wire := s.wire ++ events }) : Ends r s.rcc i2c events s (u.finish r) := by
  subst hu
  exact
    { returned := returned_finish r rfl rfl
      rcc := rfl
      i2c := rfl
      wire := rfl
      rest := ⟨rfl, fun _ => rfl, rfl, rfl, rfl, rfl, rfl⟩ }

/-! ### Initialize (43_i2c_master.md R171) -/

/-- Initialize writes its configuration and returns. -/
theorem configureI2c_ends (freq : BitVec 6) (own : BitVec 10) (am : BitVec 1) (s : State) :
    Ends .ok s.rcc { s.i2c with freq := freq, addmode := am, own := own, pe := true, inited := true } [] s
      ((s.configureI2c freq own am).finish .ok) :=
  ends_finish_i2c .ok (by rw [List.append_nil]; rfl)

/-- Settles O41: the row, then the three ways of `execI2cInit_cases`. -/
theorem i2cInitialize : Obligations.Initialize := by
  refine ⟨decodesTo_row 11 (by decide), fun freq own am s => ?_⟩
  obtain ⟨hclk, hs⟩ | ⟨hclk, hrole, hs⟩ | ⟨hclk, hrole, hs⟩ := execI2cInit_cases freq own am s
  · exact ⟨fun _ => hs, by simp [hclk], by simp [hclk]⟩
  · exact ⟨by simp [hclk], fun _ _ => hs, by simp [hrole]⟩
  · exact ⟨by simp [hclk], by simp [hrole], fun _ _ => ⟨_, hs, configureI2c_ends freq own am s⟩⟩

/-! ### SendStopCondition (43_i2c_master.md R177) -/

/-- The extra byte is on the wire alone. -/
theorem State.extraByte_eq (s : State) :
    s.extraByte = { s with wire := s.wire ++ if s.i2c.rxTail then [.rx s.draw.extra false] else [] } := by
  unfold State.extraByte
  split
  · rfl
  · rw [List.append_nil]

/-- The release of an open transaction, after the extra byte and the stop. -/
theorem releaseBus_ends (s : State) :
    Ends .ok s.rcc { s.i2c with role := .idle, busy := false, rxTail := false, ack := false }
      ((if s.i2c.rxTail then [.rx s.draw.extra false] else []) ++ [.stop]) s
      ((s.extraByte.emit .stop).releaseBus.finish .ok) :=
  ends_finish_i2c .ok (by rw [State.extraByte_eq, ← List.append_assoc]; rfl)

/-- Settles O51: the row and the two branches: an end with no update, and the release. -/
theorem sendStop : Obligations.SendStop := by
  refine ⟨decodesTo_row 16 (by decide), fun s => ⟨fun hclosed => ?closed, fun hclk hinited hrole => ?opened⟩⟩
  case closed => exact ⟨_, congrArg Host.Outcome.next (if_pos hclosed), ends_finish .ok s.rcc s⟩
  case opened =>
    have hopen : ¬ (i2cClk s = false ∨ s.i2c.inited = false ∨ s.i2c.role = .idle) := by simp [hclk, hinited, hrole]
    exact ⟨_, congrArg Host.Outcome.next (if_neg hopen), releaseBus_ends s⟩

/-- Stop refuses nothing: both of its branches end with the refusal mark as it was. -/
theorem exec_i2cStop_keeps_refused (s : State) : ∃ t, exec .i2cStop s = .next t ∧ t.refused = s.refused := by
  obtain ⟨-, hstop⟩ := sendStop
  obtain ⟨hclosed, hopened⟩ := hstop s
  by_cases h : i2cClk s = false ∨ s.i2c.inited = false ∨ s.i2c.role = .idle
  · obtain ⟨t, ht, hends⟩ := hclosed h
    exact ⟨t, ht, hends.rest.refused⟩
  · simp only [not_or, Bool.not_eq_false] at h
    obtain ⟨hclk, hinited, hrole⟩ := h
    obtain ⟨t, ht, hends⟩ := hopened hclk hinited hrole
    exact ⟨t, ht, hends.rest.refused⟩

/-! ### The admission guard (43_i2c_master.md R170) -/

theorem i2cGuard_of_clock_off {s : State} (hclk : i2cClk s = false) : i2cGuard s = some .i2cClockOff := if_pos hclk

theorem i2cGuard_of_not_inited {s : State} (hclk : i2cClk s = true) (hinited : s.i2c.inited = false) :
    i2cGuard s = some .i2cNotInitialised := by
  simp [i2cGuard, hclk, hinited]

section
variable {s : State}

theorem exec_i2cStart_first (a : BitVec 7) (d : Dir) (hop : s.host.op = none) :
    exec (.i2cStart a d) s = .next (startFirst (fun u => u.goOn (.busWait a d)) s) := by
  simp only [exec, execI2cStart, hop]

theorem exec_i2cRestart_first (a : BitVec 7) (d : Dir) (hop : s.host.op = none) :
    exec (.i2cRestart a d) s =
      .next (startFirst (fun u => u.goOn (if u.i2c.role = .idle then .busWait a d else .repStart a d)) s) := by
  simp only [exec, execI2cRestart, hop]

theorem exec_i2cWrite_first (buf len : Nat) (hop : s.host.op = none) :
    exec (.i2cWrite buf len) s = .next (transferFirst .r (.txPhase buf len 0) buf len s) := by
  simp only [exec, execI2cWrite, hop]

theorem exec_i2cRead_first (buf len : Nat) (hop : s.host.op = none) :
    exec (.i2cRead buf len) s = .next (transferFirst .w (.rxPhase buf len 0) buf len s) := by
  simp only [exec, execI2cRead, hop]

end

/-- The first step of a guarded operation is one of the two shared ones; what follows a start's checks is its next
position. -/
theorem exec_guarded_first {i : Instr} {s : State} (hop : s.host.op = none) (hi : guarded (opOf i) = true) :
    (∃ rest : State → State, (∀ u, ∃ p, rest u = u.goOn p) ∧ exec i s = .next (startFirst rest s)) ∨
    (∃ against p buf len, exec i s = .next (transferFirst against p buf len s)) := by
  cases i with
  | i2cStart a d => exact .inl ⟨_, fun _ => ⟨_, rfl⟩, exec_i2cStart_first a d hop⟩
  | i2cRestart a d => exact .inl ⟨_, fun _ => ⟨_, rfl⟩, exec_i2cRestart_first a d hop⟩
  | i2cWrite buf len => exact .inr ⟨_, _, _, _, exec_i2cWrite_first buf len hop⟩
  | i2cRead buf len => exact .inr ⟨_, _, _, _, exec_i2cRead_first buf len hop⟩
  | _ => cases hi

/-- What the guard raises refuses the operation, before every other check. -/
theorem exec_of_guard_raises {i : Instr} {s : State} {reason : RefusedReason} (hop : s.host.op = none)
    (hi : guarded (opOf i) = true) (hguard : i2cGuard s = some reason) : exec i s = .next (s.raise reason) := by
  obtain ⟨rest, -, hs⟩ | ⟨against, p, buf, len, hs⟩ := exec_guarded_first hop hi
  · simp only [hs, startFirst, hguard]
  · simp only [hs, transferFirst, hguard]

/-- Past the guard a start refuses nothing. -/
theorem startFirst_refused {rest : State → State} {s : State} (hrest : ∀ u, ∃ p, rest u = u.goOn p)
    (hguard : i2cGuard s = none) : (startFirst rest s).refused = s.refused := by
  obtain ⟨reason, hraises, -⟩ | ⟨-, -, hs⟩ | ⟨-, -, hs⟩ := startFirst_cases rest s
  · rw [hguard] at hraises
    cases hraises
  · rw [hs]
    rfl
  · obtain ⟨p, hp⟩ := hrest s.clearRxTail
    rw [hs, hp]
    rfl

/-- Past the guard a transfer refuses for its buffer or its direction alone. -/
theorem transferFirst_refused (against : Dir) (p : Position) (buf len : Nat) {s : State}
    (hguard : i2cGuard s = none) :
    (transferFirst against p buf len s).refused ∈ [s.refused, some .bufferRange, some .directionMismatch] := by
  simp only [transferFirst, hguard]
  split_ifs <;> simp

/-- Past the guard a guarded operation raises neither of the guard's reasons. -/
theorem exec_of_guard_passes {i : Instr} {s : State} (hop : s.host.op = none) (hi : guarded (opOf i) = true)
    (hguard : i2cGuard s = none) :
    ∃ t, exec i s = .next t ∧ t.refused ∈ [s.refused, some .bufferRange, some .directionMismatch] := by
  obtain ⟨rest, hrest, hs⟩ | ⟨against, p, buf, len, hs⟩ := exec_guarded_first hop hi
  · exact ⟨_, hs, by simp [startFirst_refused hrest hguard]⟩
  · exact ⟨_, hs, transferFirst_refused against p buf len hguard⟩

/-- Settles O40: the guard's three values for the four operations, then what `sendStop` and `i2cInitialize` say of the
other two. -/
theorem admissionGuard : Obligations.AdmissionGuard := by
  obtain ⟨-, hinit⟩ := i2cInitialize
  refine ⟨fun i s hop hi => ⟨fun hclk => ?off, fun hclk hinited => ?fresh, fun hclk hinited href => ?passes⟩,
    exec_i2cStop_keeps_refused, fun freq own am s => ?init⟩
  case off => exact exec_of_guard_raises hop hi (i2cGuard_of_clock_off hclk)
  case fresh => exact exec_of_guard_raises hop hi (i2cGuard_of_not_inited hclk hinited)
  case passes =>
    obtain ⟨t, ht, hmem⟩ := exec_of_guard_passes hop hi ((i2cGuard_none s).mpr ⟨hclk, hinited⟩)
    rw [href] at hmem
    exact ⟨t, ht, fun h => by simp [h] at hmem, fun h => by simp [h] at hmem⟩
  case init =>
    obtain ⟨hoff, -, hok⟩ := hinit freq own am s
    refine ⟨hoff, fun hclk hrole => ?_⟩
    obtain ⟨t, ht, hends⟩ := hok hclk hrole
    exact ⟨t, ht, hends.returned, hends.rest.refused⟩

/-! ### The failure update (43_i2c_master.md R179) -/

theorem State.applyFail_busError_keeps_bus {s : State} (hdrop : s.draw.dropRole = false) :
    (s.applyFail .busError).i2c = { s.i2c with berr := true } := by
  simp [State.applyFail, hdrop]

theorem State.applyFail_busError_drops_bus {s : State} (hdrop : s.draw.dropRole = true) :
    (s.applyFail .busError).i2c = { s.i2c with berr := true, role := .idle, busy := s.draw.busAfter } := by
  simp [State.applyFail, hdrop]

/-- Settles O46: a NACK and a lost arbitration have one update each, a bus error one for each value of the draw. -/
theorem failureUpdates : Obligations.FailureUpdates := fun s =>
  ⟨rfl, rfl, State.applyFail_busError_keeps_bus, State.applyFail_busError_drops_bus,
    fun f => ⟨State.applyFail_rcc s f, State.applyFail_host s f, State.applyFail_wire s f, rfl⟩⟩

end Sys2Proof.Machine

namespace Sys2Proof.Machine

/-! ### What an autonomous step writes (44_autonomous_steps.md R210 to R213, R217) -/

theorem envMove_of_enabled {m : Move} {s : State} (h : moveEnabled m s = true) : envMove m s = moveEffect m s :=
  if_pos h

theorem envMove_of_not_enabled {m : Move} {s : State} (h : moveEnabled m s = false) : envMove m s = s := by
  simp [envMove, h]

/-- An autonomous move writes the RCC and I2C parts alone. -/
theorem envMove_writes (m : Move) (s : State) :
    envMove m s = { s with rcc := (envMove m s).rcc, i2c := (envMove m s).i2c } := by
  cases h : moveEnabled m s with
  | true =>
    rw [envMove_of_enabled h]
    cases m <;> rfl
  | false => rw [envMove_of_not_enabled h]

@[simp] theorem envMove_host (m : Move) (s : State) : (envMove m s).host = s.host := by
  rw [envMove_writes]

@[simp] theorem envMove_wire (m : Move) (s : State) : (envMove m s).wire = s.wire := by
  rw [envMove_writes]

@[simp] theorem envMove_env (m : Move) (s : State) : (envMove m s).env = s.env := by
  rw [envMove_writes]

/-- While the controller holds the bus no autonomous move writes the I2C part (44_autonomous_steps.md R217). -/
theorem envMove_i2c_of_not_idle (m : Move) {s : State} (hrole : s.i2c.role ≠ .idle) :
    (envMove m s).i2c = s.i2c := by
  cases m with
  | busChange b => rw [envMove_of_not_enabled (by simpa [moveEnabled] using hrole)]
  | readyRises x | readyFalls x | switchSysclk =>
    unfold envMove
    split <;> rfl

/-- A move reads nothing of the environment's choices, so it may be taken before or after the choice is. -/
theorem envMove_advance (m : Move) (s : State) : envMove m s.advance = (envMove m s).advance := by
  have henabled : moveEnabled m s.advance = moveEnabled m s := by cases m <;> rfl
  cases h : moveEnabled m s with
  | true =>
    rw [envMove_of_enabled h, envMove_of_enabled (henabled.trans h)]
    cases m <;> rfl
  | false => rw [envMove_of_not_enabled h, envMove_of_not_enabled (henabled.trans h)]

theorem foldl_envMove_advance (moves : List (Move × Draw)) (s : State) :
    moves.foldl (fun u p => envMove p.1 u) s.advance = (moves.foldl (fun u p => envMove p.1 u) s).advance :=
  List.foldl_hom State.advance fun u p => envMove_advance p.1 u

/-! ### An autonomous step and a run that begins with one -/

theorem State.choice_of_script {s : State} {c : Choice} {cs : List Choice} (h : s.env.script = c :: cs) :
    s.choice = c := by
  simp only [State.choice, h]

/-- The whole step is the move's, whatever the host's status (44_autonomous_steps.md R213). -/
theorem step_of_move {m : Move} {s : State} (hm : s.choice.move = some m) : step s = .next (envMove m s).advance := by
  simp only [step, hm]

theorem step_of_enabled_move {m : Move} {s : State} (hm : s.choice.move = some m) (h : moveEnabled m s = true) :
    step s = .next (moveEffect m s).advance := by
  rw [step_of_move hm, envMove_of_enabled h]

theorem run_succ_of_step {s u : State} (n : Nat) (h : step s = .next u) :
    Host.Core.run Sys2Proof.core (n + 1) s = Host.Core.run Sys2Proof.core n u := by
  have hstep : Sys2Proof.core.step s = .next u := h
  simp only [Host.Core.run, hstep]

/-- Settles O13, by induction on the moves: the first is one whole step, and the rest run from its state, where the
choice it took makes no difference to what they do. -/
theorem environmentStepsRun : Obligations.EnvironmentStepsRun := by
  intro moves rest
  induction moves with
  | nil => exact fun s hscript => ⟨s, rfl, rfl, rfl, rfl, hscript, rfl, rfl⟩
  | cons p moves ih =>
    intro s hscript
    have hm : s.choice.move = some p.1 := by rw [State.choice_of_script hscript]
    have htail : (envMove p.1 s).advance.env.script =
        moves.map (fun p => { move := some p.1, draw := p.2 }) ++ rest := by
      rw [State.advance_script, envMove_env, hscript, List.map_cons, List.cons_append, List.tail_cons]
    obtain ⟨t, hrun, hhost, hwire, hrefused, hrest, hrcc, hi2c⟩ := ih _ htail
    rw [foldl_envMove_advance] at hrcc hi2c
    exact ⟨t, (run_succ_of_step moves.length (step_of_move hm)).trans hrun, hhost.trans (envMove_host p.1 s),
      hwire.trans (envMove_wire p.1 s), hrefused.trans (envMove_refused p.1 s), hrest, hrcc, hi2c⟩

/-- Settles O14: the move is enabled, and `setRdy` writes the one flag. -/
theorem readyRises : Obligations.ReadyRises := by
  intro x s hm hon hrdy
  have henabled : moveEnabled (.readyRises x) s = true := by simp [moveEnabled, hon, hrdy]
  exact ⟨(s.setRdy x true).advance, step_of_enabled_move hm henabled, PerSrc.get_set_same s.rcc.rdy x true,
    fun y hy => PerSrc.get_set_other s.rcc.rdy x y true hy, rfl, rfl, rfl, rfl, rfl⟩

/-! ### Other masters (44_autonomous_steps.md R217) -/

/-- A plain start has no step of its own while the bus is busy: the host's turn leaves the state as it is. -/
theorem startGeneration_of_busy (a : BitVec 7) (d : Dir) {s : State} (hbusy : s.i2c.busy = true) :
    startGeneration false a d s = s :=
  if_pos ⟨rfl, hbusy⟩

theorem exec_i2cStart_busWait {a x : BitVec 7} {d y : Dir} {s : State} (hop : s.host.op = some (.busWait x y)) :
    exec (.i2cStart a d) s = .next (startGeneration false x y s) := by
  simp only [exec, execI2cStart, hop]

/-- Settles O16: the bus move is enabled exactly while the role is Idle, the other moves write the RCC part, and a
start on a busy bus waits. -/
theorem otherMasters : Obligations.OtherMasters := by
  refine ⟨fun b s hm hrole => ?writes, fun m s t hm hrole ht => ?keeps, fun a d s hop hbusy => ?waits⟩
  case writes =>
    have henabled : moveEnabled (.busChange b) s = true := by simp [moveEnabled, hrole]
    exact ⟨_, step_of_enabled_move hm henabled, rfl, rfl, rfl, rfl⟩
  case keeps =>
    obtain rfl := Host.Outcome.next.inj ((step_of_move hm).symm.trans ht)
    exact envMove_i2c_of_not_idle m hrole
  case waits => rw [exec_i2cStart_busWait hop, startGeneration_of_busy a d hbusy]

end Sys2Proof.Machine

namespace Sys2Proof.Machine

/-! ### How a host step ends (60_exceptions.md section 2, R232, R236, R237) -/

/-- The ends of one host step from `s`: a result under the host rule, with `pc`, status and program still those of `s`
when it is given; a refusal; a hang; the next position of the operation; or a wait at the position `s` is at. -/
inductive HostStepEnd (s : State) : State → Prop
  | returns (r : Result) (u : State) (hpc : u.host.pc = s.host.pc) (hstatus : u.host.status = s.host.status)
      (hprog : u.prog = s.prog) : HostStepEnd s (u.finish r)
  | refuses (reason : RefusedReason) (u : State) : HostStepEnd s (u.raise reason)
  | hangs (reason : HangReason) (u : State) : HostStepEnd s (u.hang reason)
  | goesOn (p : Position) (u : State) : HostStepEnd s (u.goOn p)
  | waits (hop : s.host.op ≠ none) : HostStepEnd s s

/-- Of the five ends, only a result leaves no refusal, no hang and no open operation. -/
theorem HostStepEnd.returned {s t : State} (h : HostStepEnd s t) (hrefused : t.refused = none)
    (hhung : t.host.hung = none) (hop : t.host.op = none) : Returned t.host.res s t := by
  cases h with
  | returns r u hpc hstatus hprog => constructor <;> simp only [State.finish, hpc, hstatus, hprog]
  | refuses reason u => cases hrefused
  | hangs reason u => cases hhung
  | goesOn p u => cases hop
  | waits hopen => exact absurd hop hopen

/-- A reported failure writes the I2C part only before it returns Failed (43_i2c_master.md R179). -/
theorem HostStepEnd.fails {s u : State} (f : Failure) (hhost : u.host = s.host) (hprog : u.prog = s.prog) :
    HostStepEnd s (u.fails f) :=
  .returns .failed (u.applyFail f) (by rw [State.applyFail_host, hhost]) (by rw [State.applyFail_host, hhost])
    (by rw [State.applyFail_prog, hprog])

/-! #### RCC and delay operations -/

theorem clkFirst_end (src : BitVec 3) (state : BitVec 2) (s : State) : HostStepEnd s (clkFirst src state s) := by
  obtain ⟨-, h⟩ | ⟨x, -, ⟨-, h⟩ | ⟨-, -, h⟩ | ⟨-, -, h⟩ | ⟨-, h⟩⟩ := clkFirst_cases src state s <;> rw [h]
  · exact .returns _ _ rfl rfl rfl
  · exact .returns _ _ rfl rfl rfl
  · exact .refuses _ _
  · exact .returns _ _ rfl rfl rfl
  · exact .goesOn _ _

theorem clkPoll_end (x : Src) (k : Nat) (s : State) : HostStepEnd s (clkPoll x k s) := by
  obtain ⟨-, h⟩ | ⟨-, -, h⟩ | ⟨-, -, h⟩ := clkPoll_cases x k s <;> rw [h]
  · exact .returns _ _ rfl rfl rfl
  · exact .returns _ _ rfl rfl rfl
  · exact .goesOn _ _

theorem prescale_end (b : PrescBus) (code : Byte) {write : State → State} {s : State}
    (hhost : (write s).host = s.host) (hprog : (write s).prog = s.prog) :
    HostStepEnd s (prescale b code write s) := by
  obtain ⟨-, h⟩ | ⟨-, h⟩ := prescale_cases b code write s <;> rw [h]
  · exact .returns _ _ (by rw [hhost]) (by rw [hhost]) hprog
  · exact .returns _ _ rfl rfl rfl

theorem gate_end (bus : BitVec 3) (bit : Nat) (bad : Result) {write : Bus → State → State} {s : State}
    (hwrite : ∀ b, HostStepEnd s (write b s)) : HostStepEnd s (gate bus bit bad write s) := by
  obtain ⟨-, h⟩ | ⟨b, -, ⟨-, h⟩ | ⟨-, h⟩⟩ := gate_cases bus bit bad write s <;> rw [h]
  · exact .returns _ _ rfl rfl rfl
  · exact .returns _ _ rfl rfl rfl
  · exact hwrite b

theorem delay_end (n max : Nat) (s : State) : HostStepEnd s (delay n max s) := by
  obtain ⟨-, -, h⟩ | ⟨-, h⟩ := delay_cases n max s <;> rw [h]
  · exact .returns _ _ rfl rfl rfl
  · exact .refuses _ _

theorem execClkState_end {src : BitVec 3} {state : BitVec 2} {s t : State} (h : execClkState src state s = .next t) :
    HostStepEnd s t := by
  obtain rfl := Host.Outcome.next.inj h
  split
  · exact clkPoll_end _ _ s
  · exact clkFirst_end src state s

theorem execPllCfg_end {m : BitVec 6} {n : BitVec 9} {p psrc : BitVec 2} {q : BitVec 4} {r : BitVec 3} {nul : Bool}
    {s t : State} (h : execPllCfg m n p psrc q r nul s = .next t) : HostStepEnd s t := by
  obtain rfl := Host.Outcome.next.inj h
  split
  · exact .returns _ _ rfl rfl rfl
  · split
    · exact .refuses _ _
    · split <;> exact .returns _ _ rfl rfl rfl

theorem execPeriphDis_end {bus : BitVec 3} {bit : Nat} {s t : State} (h : execPeriphDis bus bit s = .next t) :
    HostStepEnd s t := by
  obtain rfl := Host.Outcome.next.inj h
  refine gate_end bus bit _ fun b => ?_
  split
  · exact .refuses _ _
  · exact .returns _ _ rfl rfl rfl

/-! #### I2C operations -/

/-- The start's first step has one of the ends where what follows it does. -/
theorem startFirst_end {rest : State → State} {s : State} (hrest : HostStepEnd s (rest s.clearRxTail)) :
    HostStepEnd s (startFirst rest s) := by
  obtain ⟨reason, -, h⟩ | ⟨-, -, h⟩ | ⟨-, -, h⟩ := startFirst_cases rest s <;> rw [h]
  · exact .refuses _ _
  · exact .returns _ _ rfl rfl rfl
  · exact hrest

theorem transferFirst_end (against : Dir) (p : Position) (buf len : Nat) (s : State) :
    HostStepEnd s (transferFirst against p buf len s) := by
  obtain ⟨reason, h⟩ | ⟨-, -, -, ⟨-, h⟩ | ⟨-, -, h⟩ | ⟨-, -, -, h⟩ | ⟨-, -, -, h⟩⟩ :=
    transferFirst_cases against p buf len s <;> rw [h]
  · exact .refuses _ _
  · exact .returns _ _ rfl rfl rfl
  · exact .returns _ _ rfl rfl rfl
  · exact .hangs _ _
  · exact .goesOn _ _

/-- Start generation happens at a position of the operation: where it waits, the operation stays open. -/
theorem startGeneration_end (rep : Bool) (a : BitVec 7) (d : Dir) {s : State} {p : Position}
    (hop : s.host.op = some p) : HostStepEnd s (startGeneration rep a d s) := by
  obtain ⟨-, -, h⟩ | ⟨-, ⟨-, h⟩ | ⟨e, -, h⟩ | ⟨-, h⟩⟩ := startGeneration_cases rep a d s <;> rw [h]
  · exact .waits (by simp [hop])
  · exact .hangs _ _
  · exact .fails _ rfl rfl
  · exact .goesOn _ _

theorem addressByte_end (a : BitVec 7) (d : Dir) (s : State) : HostStepEnd s (addressByte a d s) := by
  obtain ⟨-, h⟩ | ⟨-, h⟩ | ⟨r, f, -, -, h⟩ := addressByte_cases a d s <;> rw [h]
  · exact .hangs _ _
  · exact .returns _ _ rfl rfl rfl
  · exact .fails _ rfl rfl

theorem sendByte_end {buf len i : Nat} {s t : State} (h : sendByte buf len i s = .next t) : HostStepEnd s t := by
  obtain ⟨u, hu, hc⟩ := sendByte_cases buf len i s (lt_size_of_sendByte_next h)
  obtain rfl := Host.Outcome.next.inj (hu.symm.trans h)
  obtain ⟨-, rfl⟩ | ⟨r, f, -, -, rfl⟩ | ⟨-, -, rfl⟩ | ⟨-, -, rfl⟩ := hc
  · exact .hangs _ _
  · exact .fails _ rfl rfl
  · exact .returns _ _ rfl rfl rfl
  · exact .goesOn _ _

theorem receiveByte_end {buf len i : Nat} {s t : State} (h : receiveByte buf len i s = .next t) :
    HostStepEnd s t := by
  obtain ⟨-, rfl⟩ | ⟨e, -, rfl⟩ | ⟨v, -, -, -, rfl⟩ | ⟨v, -, -, -, rfl⟩ := receiveByte_next_cases h
  · exact .hangs _ _
  · exact .fails _ rfl rfl
  · exact .returns _ _ rfl rfl rfl
  · exact .goesOn _ _

theorem execI2cInit_end {freq : BitVec 6} {own : BitVec 10} {am : BitVec 1} {s t : State}
    (h : execI2cInit freq own am s = .next t) : HostStepEnd s t := by
  obtain ⟨-, hs⟩ | ⟨-, -, hs⟩ | ⟨-, -, hs⟩ := execI2cInit_cases freq own am s <;>
    obtain rfl := Host.Outcome.next.inj (hs.symm.trans h)
  · exact .refuses _ _
  · exact .refuses _ _
  · exact .returns _ _ rfl rfl rfl

theorem execI2cStart_end {a : BitVec 7} {d : Dir} {s t : State} (h : execI2cStart a d s = .next t) :
    HostStepEnd s t := by
  obtain rfl := Host.Outcome.next.inj h
  split
  next hop => exact startGeneration_end _ _ _ hop
  next => exact addressByte_end _ _ s
  next => exact startFirst_end (.goesOn _ _)

theorem execI2cRestart_end {a : BitVec 7} {d : Dir} {s t : State} (h : execI2cRestart a d s = .next t) :
    HostStepEnd s t := by
  obtain rfl := Host.Outcome.next.inj h
  split
  next hop => exact startGeneration_end _ _ _ hop
  next hop => exact startGeneration_end _ _ _ hop
  next => exact addressByte_end _ _ s
  next => exact startFirst_end (.goesOn _ _)

theorem execI2cWrite_end {buf len : Nat} {s t : State} (h : execI2cWrite buf len s = .next t) :
    HostStepEnd s t := by
  unfold execI2cWrite at h
  split at h
  · exact sendByte_end h
  · obtain rfl := Host.Outcome.next.inj h
    exact transferFirst_end _ _ _ _ s

theorem execI2cRead_end {buf len : Nat} {s t : State} (h : execI2cRead buf len s = .next t) : HostStepEnd s t := by
  unfold execI2cRead at h
  split at h
  · exact receiveByte_end h
  · obtain rfl := Host.Outcome.next.inj h
    exact transferFirst_end _ _ _ _ s

@[simp] theorem State.extraByte_host (s : State) : s.extraByte.host = s.host := by
  unfold State.extraByte
  split <;> rfl

@[simp] theorem State.extraByte_prog (s : State) : s.extraByte.prog = s.prog := by
  unfold State.extraByte
  split <;> rfl

theorem execI2cStop_end {s t : State} (h : execI2cStop s = .next t) : HostStepEnd s t := by
  obtain rfl := Host.Outcome.next.inj h
  split
  · exact .returns _ _ rfl rfl rfl
  · exact .returns _ _ (by simp [State.releaseBus]) (by simp [State.releaseBus]) (by simp [State.releaseBus])

/-! #### Every operation -/

/-- What one host step of any operation can be. -/
theorem exec_end {i : Instr} {s t : State} (h : exec i s = .next t) : HostStepEnd s t := by
  cases i with
  | clkState src state => exact execClkState_end h
  | pllCfg m n p psrc q r nul => exact execPllCfg_end h
  | setSysClk sel => obtain rfl := Host.Outcome.next.inj h; exact .returns _ _ rfl rfl rfl
  | getSysClk => obtain rfl := Host.Outcome.next.inj h; exact .returns _ _ rfl rfl rfl
  | ahbPre code => obtain rfl := Host.Outcome.next.inj h; exact prescale_end _ _ rfl rfl
  | apb1Pre code => obtain rfl := Host.Outcome.next.inj h; exact prescale_end _ _ rfl rfl
  | apb2Pre code => obtain rfl := Host.Outcome.next.inj h; exact prescale_end _ _ rfl rfl
  | periphEn bus bit =>
    obtain rfl := Host.Outcome.next.inj h
    exact gate_end _ _ _ fun _ => .returns _ _ rfl rfl rfl
  | periphDis bus bit => exact execPeriphDis_end h
  | delayMs n => obtain rfl := Host.Outcome.next.inj h; exact delay_end _ _ s
  | delayUs n => obtain rfl := Host.Outcome.next.inj h; exact delay_end _ _ s
  | i2cInit freq own am => exact execI2cInit_end h
  | i2cStart a d => exact execI2cStart_end h
  | i2cRestart a d => exact execI2cRestart_end h
  | i2cWrite buf len => exact execI2cWrite_end h
  | i2cRead buf len => exact execI2cRead_end h
  | i2cStop => exact execI2cStop_end h

/-! ### The host's turn (60_exceptions.md R232) -/

theorem State.hostRuns_iff (s : State) :
    s.hostRuns = true ↔ s.host.status = .running ∧ s.refused = none ∧ s.host.hung = none := by
  simp [State.hostRuns, and_assoc]

theorem State.current_eq_some_iff (s : State) (i : Instr) :
    s.current = some i ↔ ∃ w, s.fetch = some w ∧ decode w = .ok i := by
  cases hf : s.fetch with
  | none => simp [State.current, hf]
  | some w => cases hd : decode w <;> simp [State.current, hf, hd]

/-- In its turn, a host that runs takes a step of the operation at `pc`. -/
theorem step_of_current {s : State} {i : Instr} (hm : s.choice.move = none) (hr : s.hostRuns = true)
    (hi : s.current = some i) : step s = mapNext State.advance (exec i s) := by
  obtain ⟨w, hf, hd⟩ := (s.current_eq_some_iff i).mp hi
  simp only [step, hm, hostTurn, hr, if_true, hf, runCommand, hd]

/-- A host that does not run lets its turn pass. -/
theorem step_of_not_hostRuns {s : State} (hm : s.choice.move = none) (hr : s.hostRuns = false) :
    step s = .next s.advance := by
  simp [step, hm, hostTurn, hr, mapNext]

/-- Settles O9: of the ends of a host step only a result closes the operation, and it is given by the host rule. -/
theorem hostRule : Obligations.HostRule := by
  refine ⟨fun i s t h => (exec_end h).returned, fun s i hm hstatus _ hrefused hhung hi => ?starts,
    fun s hm hstatus => ?stopped⟩
  case starts => exact step_of_current hm (s.hostRuns_iff.mpr ⟨hstatus, hrefused, hhung⟩) hi
  case stopped =>
    have hr : s.hostRuns = false := by simp [State.hostRuns, hstatus]
    exact step_of_not_hostRuns hm hr

end Sys2Proof.Machine

namespace Sys2Proof

/-! ### Encoding and decoding every operation (30_encoding.md sections 1 to 4) -/

@[simp] theorem Sel.ofCode_code (sel : Sel) : Sel.ofCode sel.code = sel := by cases sel <;> rfl

@[simp] theorem Sel.code_ofCode (c : BitVec 2) : (Sel.ofCode c).code = c := by revert c; decide

@[simp] theorem Dir.ofCode_code (d : Dir) : Dir.ofCode d.code = d := by cases d <;> rfl

@[simp] theorem Dir.code_ofCode (c : BitVec 1) : (Dir.ofCode c).code = c := by revert c; decide

theorem decode_encode_setSysClk (sel : Sel) : decode (encode (.setSysClk sel)) = .ok (.setSysClk sel) := by
  refine decode_encode_of_row 2 (by decide) rfl (Laws.RowBits.setSysClk sel) ?_
  simp [opcodeTable, rccRows, encode]

theorem decode_encode_delayMs {n : Nat} (h : n < 2 ^ 32) : decode (encode (.delayMs n)) = .ok (.delayMs n) := by
  refine decode_encode_of_row 9 (by decide) rfl (Laws.RowBits.delayMs n) ?_
  simpa [opcodeTable, rccRows, delayRows, encode] using h

theorem decode_encode_delayUs {n : Nat} (h : n < 2 ^ 32) : decode (encode (.delayUs n)) = .ok (.delayUs n) := by
  refine decode_encode_of_row 10 (by decide) rfl (Laws.RowBits.delayUs n) ?_
  simpa [opcodeTable, rccRows, delayRows, encode] using h

theorem decode_encode_i2cInit (freq : BitVec 6) (own : BitVec 10) (am : BitVec 1) :
    decode (encode (.i2cInit freq own am)) = .ok (.i2cInit freq own am) := by
  refine decode_encode_of_row 11 (by decide) rfl (Laws.RowBits.i2cInit freq own am) ?_
  simp [opcodeTable, rccRows, delayRows, i2cRows, encode]

theorem decode_encode_i2cStart (a : BitVec 7) (d : Dir) :
    decode (encode (.i2cStart a d)) = .ok (.i2cStart a d) := by
  refine decode_encode_of_row 12 (by decide) rfl (Laws.RowBits.i2cStart a d) ?_
  simp [opcodeTable, rccRows, delayRows, i2cRows, encode]

theorem decode_encode_i2cRestart (a : BitVec 7) (d : Dir) :
    decode (encode (.i2cRestart a d)) = .ok (.i2cRestart a d) := by
  refine decode_encode_of_row 13 (by decide) rfl (Laws.RowBits.i2cRestart a d) ?_
  simp [opcodeTable, rccRows, delayRows, i2cRows, encode]

theorem decode_encode_i2cWrite {buf len : Nat} (hbuf : buf < 2 ^ 32) (hlen : len < 2 ^ 16) :
    decode (encode (.i2cWrite buf len)) = .ok (.i2cWrite buf len) := by
  refine decode_encode_of_row 14 (by decide) rfl (Laws.RowBits.i2cWrite buf len) ?_
  simpa [opcodeTable, rccRows, delayRows, i2cRows, encode] using And.intro hbuf hlen

theorem decode_encode_i2cRead {buf len : Nat} (hbuf : buf < 2 ^ 32) (hlen : len < 2 ^ 16) :
    decode (encode (.i2cRead buf len)) = .ok (.i2cRead buf len) := by
  refine decode_encode_of_row 15 (by decide) rfl (Laws.RowBits.i2cRead buf len) ?_
  simpa [opcodeTable, rccRows, delayRows, i2cRows, encode] using And.intro hbuf hlen

/-- Settles O1: each operation's word matches the operation's row, and the row's fields are the operands placed. -/
theorem decodeOfEncode : Obligations.DecodeOfEncode := by
  intro i hi
  cases i with
  | clkState src state => exact decode_encode_clkState src state
  | pllCfg m n p psrc q r nul => exact decode_encode_pllCfg m n p psrc q r nul
  | setSysClk sel => exact decode_encode_setSysClk sel
  | getSysClk => decide
  | ahbPre code => exact decode_encode_ahbPre code
  | apb1Pre code => exact decode_encode_apb1Pre code
  | apb2Pre code => exact decode_encode_apb2Pre code
  | periphEn bus bit => exact decode_encode_periphEn bus hi
  | periphDis bus bit => exact decode_encode_periphDis bus hi
  | delayMs n => exact decode_encode_delayMs hi
  | delayUs n => exact decode_encode_delayUs hi
  | i2cInit freq own am => exact decode_encode_i2cInit freq own am
  | i2cStart a d => exact decode_encode_i2cStart a d
  | i2cRestart a d => exact decode_encode_i2cRestart a d
  | i2cWrite buf len => exact decode_encode_i2cWrite hi.1 hi.2
  | i2cRead buf len => exact decode_encode_i2cRead hi.1 hi.2
  | i2cStop => decide

/-! The fields of a row are the bits its mask leaves open: so a row's operation, encoded, is the row's fixed bits and the
word's other bits, and a word that matches the row has both. -/

/-- The bits of a field in the command word. -/
def fieldMask (lo len : Nat) : Command := place (BitVec.allOnes len) lo

/-- A field of a word put back where it was is the word under the field's mask. -/
theorem place_field (w : Command) (lo len : Nat) : place (field w lo len) lo = w &&& fieldMask lo len := by
  apply BitVec.eq_of_getLsbD_eq
  intro k hk
  by_cases hlo : k < lo
  · simp [place, fieldMask, hlo]
  · by_cases hlen : k - lo < len
    · simp [place, field, fieldMask, hk, hlo, hlen, show lo + (k - lo) = k by omega]
    · simp [place, fieldMask, hk, hlen, BitVec.getLsbD_of_ge (field w lo len) (k - lo) (by omega)]

theorem ofBool_getLsbD (w : Command) (k : Nat) : BitVec.ofBool (w.getLsbD k) = field w k 1 := by
  apply BitVec.eq_of_getLsbD_eq
  intro j hj
  obtain rfl : j = 0 := by omega
  simp [field]

/-- The operation a row builds from any word, encoded. -/
theorem encode_build {r : Row} (hr : r ∈ opcodeTable) (w : Command) :
    encode (r.build w) = r.mtch ||| w &&& ~~~r.mask := by
  have hfields : ∀ a m n : Command, m = n → a ||| w &&& m = a ||| w &&& n := by rintro a m _ rfl; rfl
  have hnone : ∀ a n : Command, n = 0 → a = a ||| w &&& n := by rintro a _ rfl; simp
  simp only [opcodeTable, rccRows, delayRows, i2cRows, List.cons_append, List.nil_append, List.mem_cons,
    List.not_mem_nil, or_false] at hr
  rcases hr with rfl | rfl | rfl | rfl | rfl | rfl | rfl | rfl | rfl | rfl | rfl | rfl | rfl | rfl | rfl | rfl | rfl
  -- the two rows without a field
  pick_goal 4
  · exact hnone _ _ (by decide)
  pick_goal 16
  · exact hnone _ _ (by decide)
  all_goals
    simp only [encode, ofBool_getLsbD, Sel.code_ofCode, Dir.code_ofCode, BitVec.ofNat_toNat, BitVec.setWidth_eq,
      place_field, BitVec.or_assoc, ← BitVec.and_or_distrib_left]
    exact hfields _ _ _ (by decide)

/-- A matching word is what its row builds, encoded again. -/
theorem encode_build_of_match {r : Row} (hr : r ∈ opcodeTable) {w : Command} (h : w &&& r.mask = r.mtch) :
    encode (r.build w) = w := by
  rw [encode_build hr, ← h, ← BitVec.and_or_distrib_left]
  have hall : r.mask ||| ~~~r.mask = BitVec.allOnes 64 := by simp
  rw [hall, BitVec.and_allOnes]

/-- What a row builds from a word is an operation a command word can hold. -/
theorem wellFormed_build {r : Row} (hr : r ∈ opcodeTable) (w : Command) : (r.build w).WellFormed := by
  revert r
  simp only [opcodeTable, rccRows, delayRows, i2cRows, List.cons_append, List.nil_append, List.forall_mem_cons,
    List.not_mem_nil, false_implies, implies_true, Instr.WellFormed, BitVec.isLt, and_self]

/-- Settles O2: the word matches the row that builds the operation, and `encode_build_of_match` gives it back. -/
theorem encodeOfDecode : Obligations.EncodeOfDecode := by
  intro w i h
  obtain ⟨r, hr, hm, rfl⟩ := (decode_eq_ok_iff w i).mp h
  exact ⟨wellFormed_build hr w, encode_build_of_match hr hm⟩

end Sys2Proof

namespace Sys2Proof.Machine

/-! ### The fields of three more updates -/

section
variable (s : State)

@[simp] theorem State.releaseBus_rcc : s.releaseBus.rcc = s.rcc := rfl
@[simp] theorem State.releaseBus_host : s.releaseBus.host = s.host := rfl
@[simp] theorem State.releaseBus_wire : s.releaseBus.wire = s.wire := rfl
@[simp] theorem State.releaseBus_refused : s.releaseBus.refused = s.refused := rfl
@[simp] theorem State.releaseBus_prog : s.releaseBus.prog = s.prog := rfl
@[simp] theorem State.releaseBus_params : s.releaseBus.params = s.params := rfl
@[simp] theorem State.releaseBus_env : s.releaseBus.env = s.env := rfl

@[simp] theorem State.configureI2c_rcc (freq : BitVec 6) (own : BitVec 10) (am : BitVec 1) :
    (s.configureI2c freq own am).rcc = s.rcc := rfl
@[simp] theorem State.configureI2c_host (freq : BitVec 6) (own : BitVec 10) (am : BitVec 1) :
    (s.configureI2c freq own am).host = s.host := rfl
@[simp] theorem State.configureI2c_wire (freq : BitVec 6) (own : BitVec 10) (am : BitVec 1) :
    (s.configureI2c freq own am).wire = s.wire := rfl
@[simp] theorem State.configureI2c_refused (freq : BitVec 6) (own : BitVec 10) (am : BitVec 1) :
    (s.configureI2c freq own am).refused = s.refused := rfl
@[simp] theorem State.configureI2c_prog (freq : BitVec 6) (own : BitVec 10) (am : BitVec 1) :
    (s.configureI2c freq own am).prog = s.prog := rfl
@[simp] theorem State.configureI2c_params (freq : BitVec 6) (own : BitVec 10) (am : BitVec 1) :
    (s.configureI2c freq own am).params = s.params := rfl
@[simp] theorem State.configureI2c_env (freq : BitVec 6) (own : BitVec 10) (am : BitVec 1) :
    (s.configureI2c freq own am).env = s.env := rfl

@[simp] theorem State.extraByte_rcc : s.extraByte.rcc = s.rcc := by rw [State.extraByte_eq]
@[simp] theorem State.extraByte_refused : s.extraByte.refused = s.refused := by rw [State.extraByte_eq]
@[simp] theorem State.extraByte_params : s.extraByte.params = s.params := by rw [State.extraByte_eq]
@[simp] theorem State.extraByte_env : s.extraByte.env = s.env := by rw [State.extraByte_eq]

end

/-! ### What a host step can be (10_state.md R40)

A host step is either the step of an open position of the operation, which the position alone determines, or the first
step of the operation. `PositionStep` and `FirstStep` list them, with what each writes; `exec_cases` says that there are
no others, and the frames and invariants below are proved by their cases. -/

/-- The position is one of the operation's, whatever its locals are. -/
def Position.isOf : Op → Position → Bool
  | .clkState, .clkPoll _ _ => true
  | .i2cStart, .busWait _ _ => true
  | .i2cStart, .addrPhase _ _ _ => true
  | .i2cRestart, .busWait _ _ => true
  | .i2cRestart, .repStart _ _ => true
  | .i2cRestart, .addrPhase _ _ _ => true
  | .i2cWrite, .txPhase _ _ _ => true
  | .i2cRead, .rxPhase _ _ _ => true
  | _, _ => false

/-- The position at which a start or a repeated start is generated. -/
def startPosition (rep : Bool) (a : BitVec 7) (d : Dir) : Position := if rep then .repStart a d else .busWait a d

/-- The step that follows an open position, by what the state and the draws decide. -/
inductive PositionStep (s : State) : Position → State → Prop
  | pollReady (x : Src) (k : Nat) (hr : s.rcc.rdy.get x = true) :
    PositionStep s (.clkPoll x k) ((s.setClk x .ready).finish .ok)
  | pollLast (x : Src) (k : Nat) (hr : s.rcc.rdy.get x = false) (hk : s.params.ceil ≤ k + 1) :
    PositionStep s (.clkPoll x k) ((s.setClk x .timedOut).finish .timeout)
  | pollAgain (x : Src) (k : Nat) (hr : s.rcc.rdy.get x = false) (hk : k + 1 < s.params.ceil) :
    PositionStep s (.clkPoll x k) (s.goOn (.clkPoll x (k + 1)))
  | waits (a : BitVec 7) (d : Dir) (hbusy : s.i2c.busy = true) : PositionStep s (.busWait a d) s
  | startStalls (p : Position) (rep : Bool) (a : BitVec 7) (d : Dir) (hp : p = startPosition rep a d) :
    PositionStep s p (s.hang .stall)
  | startFails (p : Position) (rep : Bool) (a : BitVec 7) (d : Dir) (hp : p = startPosition rep a d) (e : BusErr) :
    PositionStep s p ((s.emit (.fail e)).fails (failureOfErr e))
  | started (p : Position) (rep : Bool) (a : BitVec 7) (d : Dir) (hp : p = startPosition rep a d) :
    PositionStep s p (((s.emit (if rep then .repStart else .start)).takeBus d).goOn (.addrPhase rep a d))
  | addressStalls (rep : Bool) (a : BitVec 7) (d : Dir) : PositionStep s (.addrPhase rep a d) (s.hang .stall)
  | addressAcked (rep : Bool) (a : BitVec 7) (d : Dir) :
    PositionStep s (.addrPhase rep a d) ((s.emit (.addr (addrByte a d) .ack)).finish .ok)
  | addressFails (rep : Bool) (a : BitVec 7) (d : Dir) (r : TxResp) (f : Failure) (hf : failureOfResp r = some f) :
    PositionStep s (.addrPhase rep a d) ((s.emit (.addr (addrByte a d) r)).fails f)
  | sendStalls (buf len k : Nat) : PositionStep s (.txPhase buf len k) (s.hang .stall)
  | sendFails (buf len k : Nat) (r : TxResp) (f : Failure) :
    PositionStep s (.txPhase buf len k) ((s.emit (.tx (s.byteAt (buf + k)) r)).fails f)
  | sentLast (buf len k : Nat) (hk : len ≤ k + 1) :
    PositionStep s (.txPhase buf len k) ((s.emit (.tx (s.byteAt (buf + k)) .ack)).finish .ok)
  | sent (buf len k : Nat) (hk : k + 1 < len) :
    PositionStep s (.txPhase buf len k) ((s.emit (.tx (s.byteAt (buf + k)) .ack)).goOn (.txPhase buf len (k + 1)))
  | receiveStalls (buf len k : Nat) :
    PositionStep s (.rxPhase buf len k) ((s.setAck (!decide (len ≤ k + 1))).hang .stall)
  | receiveFails (buf len k : Nat) (e : BusErr) :
    PositionStep s (.rxPhase buf len k)
      (((s.setAck (!decide (len ≤ k + 1))).emit (.fail e)).fails (failureOfErr e))
  | receivedLast (buf len k : Nat) (v : Byte) (ha : buf + k < Memory.size) (hk : len ≤ k + 1) :
    PositionStep s (.rxPhase buf len k) (((s.received buf len k v).setRxTail (wireAck true s)).finish .ok)
  | received (buf len k : Nat) (v : Byte) (ha : buf + k < Memory.size) (hk : k + 1 < len) :
    PositionStep s (.rxPhase buf len k) ((s.received buf len k v).goOn (.rxPhase buf len (k + 1)))

/-- The first step of an operation: what it writes, and what its checks have found where it writes anything. -/
inductive FirstStep (s : State) : Instr → State → Prop
  | returns (i : Instr) (r : Result) (hr : r ∈ resultsOf (opOf i)) : FirstStep s i (s.finish r)
  | refuses (i : Instr) (reason : RefusedReason) (hr : reason ∈ refusalsOf (opOf i)) :
    FirstStep s i (s.raise reason)
  | clkOff (src : BitVec 3) (state : BitVec 2) (x : Src) (hx : srcOfCode src = some x) (hu : inUse s x = false) :
    FirstStep s (.clkState src state) (((s.setOn x false).setClk x .disabled).finish .ok)
  | clkOn (src : BitVec 3) (state : BitVec 2) (x : Src) (hx : srcOfCode src = some x) :
    FirstStep s (.clkState src state) (((s.setOn x true).setClk x .enabling).goOn (.clkPoll x 0))
  | pllCfg (m : BitVec 6) (n : BitVec 9) (p psrc : BitVec 2) (q : BitVec 4) (r : BitVec 3) (nul : Bool) (pll : Pll)
    (res : Result) (hres : res ∈ resultsOf .pllCfg) :
    FirstStep s (.pllCfg m n p psrc q r nul) (({ s with rcc := { s.rcc with pll := pll } } : State).finish res)
  | setSysClk (sel : Sel) :
    FirstStep s (.setSysClk sel) (({ s with rcc := { s.rcc with sw := sel } } : State).finish .ok)
  | getSysClk :
    FirstStep s .getSysClk (({ s with host := { s.host with val := s.rcc.sws.code } } : State).finish .ok)
  | ahbPre (code : Byte) (hc : code ∈ s.params.ahbPrescLegal) :
    FirstStep s (.ahbPre code) (({ s with rcc := { s.rcc with hpre := code.setWidth 4 } } : State).finish .ok)
  | apb1Pre (code : Byte) (hc : code ∈ s.params.apb1PrescLegal) :
    FirstStep s (.apb1Pre code) (({ s with rcc := { s.rcc with ppre1 := code.setWidth 3 } } : State).finish .ok)
  | apb2Pre (code : Byte) (hc : code ∈ s.params.apb2PrescLegal) :
    FirstStep s (.apb2Pre code) (({ s with rcc := { s.rcc with ppre2 := code.setWidth 3 } } : State).finish .ok)
  | periphEn (bus : BitVec 3) (b : Bus) (bit : Nat) (hb : busOfCode bus = some b)
    (hl : legalBit s.params b bit = true) :
    FirstStep s (.periphEn bus bit) ((s.setEnr b (setBit (s.rcc.enr.get b) bit)).finish .ok)
  | periphDis (bus : BitVec 3) (b : Bus) (bit : Nat) (hb : busOfCode bus = some b)
    (hl : legalBit s.params b bit = true) (hm : stopsMaster b bit s = false) :
    FirstStep s (.periphDis bus bit) ((s.setEnr b (clearBit (s.rcc.enr.get b) bit)).finish .ok)
  | i2cInit (freq : BitVec 6) (own : BitVec 10) (am : BitVec 1) (hr : s.i2c.role = .idle) :
    FirstStep s (.i2cInit freq own am) ((s.configureI2c freq own am).finish .ok)
  | stale (i : Instr) (hi : guarded (opOf i) = true) : FirstStep s i (s.clearRxTail.finish .failed)
  | empty (i : Instr) (hi : guarded (opOf i) = true) : FirstStep s i (s.clearRxTail.finish .ok)
  | noTransaction (i : Instr) (hi : guarded (opOf i) = true) : FirstStep s i (s.clearRxTail.hang .noTransaction)
  | opens (i : Instr) (p : Position) (hi : guarded (opOf i) = true) (hguard : i2cGuard s = none) (hp : p.belongs i)
    (hfits : p.fits s.i2c.role) (hbus : p.onBus = true) (hnew : ∀ rep a d, p ≠ .addrPhase rep a d) :
    FirstStep s i (s.clearRxTail.goOn p)
  | i2cStop (hrole : s.i2c.role ≠ .idle) : FirstStep s .i2cStop ((s.extraByte.emit .stop).releaseBus.finish .ok)

/-- The two kinds of host step of an operation. -/
inductive HostStep (s : State) (i : Instr) (t : State) : Prop
  | atPosition (p : Position) (hop : s.host.op = some p) (hp : p.isOf (opOf i) = true) (h : PositionStep s p t)
  | first (hop : ∀ p, s.host.op = some p → p.isOf (opOf i) = false) (h : FirstStep s i t)

/-! #### The shared operations -/

theorem clkPoll_step (x : Src) (k : Nat) (s : State) : PositionStep s (.clkPoll x k) (clkPoll x k s) := by
  obtain ⟨hr, h⟩ | ⟨hr, hk, h⟩ | ⟨hr, hk, h⟩ := clkPoll_cases x k s <;> rw [h]
  · exact .pollReady x k hr
  · exact .pollLast x k hr hk
  · exact .pollAgain x k hr hk

theorem startGeneration_step (rep : Bool) (a : BitVec 7) (d : Dir) (s : State) :
    PositionStep s (startPosition rep a d) (startGeneration rep a d s) := by
  obtain ⟨rfl, hbusy, h⟩ | ⟨-, ⟨-, h⟩ | ⟨e, -, h⟩ | ⟨-, h⟩⟩ := startGeneration_cases rep a d s <;> rw [h]
  · exact .waits a d hbusy
  · exact .startStalls _ rep a d rfl
  · exact .startFails _ rep a d rfl e
  · exact .started _ rep a d rfl

theorem addressByte_step (rep : Bool) (a : BitVec 7) (d : Dir) (s : State) :
    PositionStep s (.addrPhase rep a d) (addressByte a d s) := by
  obtain ⟨-, h⟩ | ⟨-, h⟩ | ⟨r, f, -, hf, h⟩ := addressByte_cases a d s <;> rw [h]
  · exact .addressStalls rep a d
  · exact .addressAcked rep a d
  · exact .addressFails rep a d r f hf

theorem sendByte_step {buf len k : Nat} {s t : State} (h : sendByte buf len k s = .next t) :
    PositionStep s (.txPhase buf len k) t := by
  obtain ⟨u, hu, hc⟩ := sendByte_cases buf len k s (lt_size_of_sendByte_next h)
  obtain rfl := Host.Outcome.next.inj (hu.symm.trans h)
  obtain ⟨-, rfl⟩ | ⟨r, f, -, -, rfl⟩ | ⟨-, hk, rfl⟩ | ⟨-, hk, rfl⟩ := hc
  · exact .sendStalls buf len k
  · exact .sendFails buf len k r f
  · exact .sentLast buf len k hk
  · exact .sent buf len k hk

theorem receiveByte_step {buf len k : Nat} {s t : State} (h : receiveByte buf len k s = .next t) :
    PositionStep s (.rxPhase buf len k) t := by
  obtain ⟨-, rfl⟩ | ⟨e, -, rfl⟩ | ⟨v, -, ha, hk, rfl⟩ | ⟨v, -, ha, hk, rfl⟩ := receiveByte_next_cases h
  · exact .receiveStalls buf len k
  · exact .receiveFails buf len k e
  · exact .receivedLast buf len k v ha hk
  · exact .received buf len k v ha hk

theorem clkFirst_step (src : BitVec 3) (state : BitVec 2) (s : State) :
    FirstStep s (.clkState src state) (clkFirst src state s) := by
  obtain ⟨-, h⟩ | ⟨x, hx, ⟨-, h⟩ | ⟨-, -, h⟩ | ⟨-, hu, h⟩ | ⟨-, h⟩⟩ := clkFirst_cases src state s <;> rw [h]
  · exact .returns _ _ (by simp [opOf, resultsOf])
  · exact .returns _ _ (by simp [opOf, resultsOf])
  · exact .refuses _ _ (by simp [opOf, refusalsOf])
  · exact .clkOff src state x hx hu
  · exact .clkOn src state x hx

theorem i2cGuard_reason {s : State} {reason : RefusedReason} (h : i2cGuard s = some reason) :
    reason = .i2cClockOff ∨ reason = .i2cNotInitialised := by
  unfold i2cGuard at h
  split_ifs at h
  · exact .inl (Option.some.inj h).symm
  · exact .inr (Option.some.inj h).symm

theorem guarded_iff (o : Op) :
    guarded o = true ↔ o = .i2cStart ∨ o = .i2cRestart ∨ o = .i2cWrite ∨ o = .i2cRead := by
  simp [guarded]

theorem guard_refusals {o : Op} (ho : guarded o = true) {reason : RefusedReason}
    (h : reason = .i2cClockOff ∨ reason = .i2cNotInitialised) : reason ∈ refusalsOf o := by
  obtain rfl | rfl | rfl | rfl := (guarded_iff o).mp ho <;> simpa [refusalsOf] using by tauto

theorem startFirst_step {i : Instr} {rest : State → State} {s : State} (hi : guarded (opOf i) = true)
    (hrest : i2cGuard s = none → FirstStep s i (rest s.clearRxTail)) : FirstStep s i (startFirst rest s) := by
  obtain ⟨reason, hg, h⟩ | ⟨-, -, h⟩ | ⟨hg, -, h⟩ := startFirst_cases rest s <;> rw [h]
  · exact .refuses i reason (guard_refusals hi (i2cGuard_reason hg))
  · exact .stale i hi
  · exact hrest hg

theorem transferFirst_step {i : Instr} {against : Dir} {p : Position} {buf len : Nat} {s : State}
    (hi : guarded (opOf i) = true) (hrange : .bufferRange ∈ refusalsOf (opOf i))
    (hdirection : .directionMismatch ∈ refusalsOf (opOf i))
    (hopens : i2cGuard s = none → buf + len ≤ Memory.size → 0 < len → s.i2c.role ≠ .idle →
      s.i2c.role ≠ .master against → FirstStep s i (s.clearRxTail.goOn p)) :
    FirstStep s i (transferFirst against p buf len s) := by
  unfold transferFirst
  split
  next reason hg => exact .refuses i reason (guard_refusals hi (i2cGuard_reason hg))
  next hg =>
    split_ifs with hbuf hrole _ hlen hidle
    · exact .refuses i _ hrange
    · exact .refuses i _ hdirection
    · exact .stale i hi
    · exact .empty i hi
    · exact .noTransaction i hi
    · exact hopens hg (by simpa [bufferOverruns] using hbuf) (by omega) hidle hrole

theorem Role.eq_master_w {r : Role} (hidle : r ≠ .idle) (hr : r ≠ .master .r) : r = .master .w := by
  rcases r with _ | (_ | _)
  · exact absurd rfl hidle
  · rfl
  · exact absurd rfl hr

theorem Role.eq_master_r {r : Role} (hidle : r ≠ .idle) (hw : r ≠ .master .w) : r = .master .r := by
  rcases r with _ | (_ | _)
  · exact absurd rfl hidle
  · exact absurd rfl hw
  · rfl

/-! #### The operations -/

theorem execClkState_step {src : BitVec 3} {state : BitVec 2} {s t : State} (h : execClkState src state s = .next t) :
    HostStep s (.clkState src state) t := by
  obtain rfl := Host.Outcome.next.inj h
  split
  next x k hop => exact .atPosition _ hop rfl (clkPoll_step x k s)
  next hno =>
    refine .first (fun p hop => ?_) (clkFirst_step src state s)
    cases p with
    | clkPoll x k => exact absurd hop (hno x k)
    | _ => rfl

theorem execI2cStart_step {a : BitVec 7} {d : Dir} {s t : State} (h : execI2cStart a d s = .next t) :
    HostStep s (.i2cStart a d) t := by
  obtain rfl := Host.Outcome.next.inj h
  split
  next x y hop => exact .atPosition _ hop rfl (startGeneration_step false x y s)
  next rep x y hop => exact .atPosition _ hop rfl (addressByte_step rep x y s)
  next hwait haddr =>
    refine .first (fun p hop => ?_) (startFirst_step rfl fun hg => .opens _ _ rfl hg ⟨rfl, rfl⟩ trivial rfl nofun)
    cases p with
    | busWait x y => exact absurd hop (hwait x y)
    | addrPhase rep x y => exact absurd hop (haddr rep x y)
    | _ => rfl

theorem execI2cRestart_step {a : BitVec 7} {d : Dir} {s t : State} (h : execI2cRestart a d s = .next t) :
    HostStep s (.i2cRestart a d) t := by
  obtain rfl := Host.Outcome.next.inj h
  split
  next x y hop => exact .atPosition _ hop rfl (startGeneration_step false x y s)
  next x y hop => exact .atPosition _ hop rfl (startGeneration_step true x y s)
  next rep x y hop => exact .atPosition _ hop rfl (addressByte_step rep x y s)
  next hwait hrep haddr =>
    refine .first (fun p hop => ?_) (startFirst_step rfl fun hg => ?_)
    · cases p with
      | busWait x y => exact absurd hop (hwait x y)
      | repStart x y => exact absurd hop (hrep x y)
      | addrPhase rep x y => exact absurd hop (haddr rep x y)
      | _ => rfl
    · split
      next => exact .opens _ _ rfl hg ⟨rfl, rfl⟩ trivial rfl nofun
      next hrole => exact .opens _ _ rfl hg ⟨rfl, rfl⟩ hrole rfl nofun

theorem execI2cWrite_step {buf len : Nat} {s t : State} (h : execI2cWrite buf len s = .next t) :
    HostStep s (.i2cWrite buf len) t := by
  unfold execI2cWrite at h
  split at h
  next b n k hop => exact .atPosition _ hop rfl (sendByte_step h)
  next hno =>
    obtain rfl := Host.Outcome.next.inj h
    refine .first (fun p hop => ?_) (transferFirst_step rfl (by simp [opOf, refusalsOf]) (by simp [opOf, refusalsOf])
      fun hg hbuf hlen hidle hr =>
      .opens _ _ rfl hg ⟨rfl, rfl, hlen, hbuf⟩ (Role.eq_master_w hidle hr) rfl nofun)
    cases p with
    | txPhase b n k => exact absurd hop (hno b n k)
    | _ => rfl

theorem execI2cRead_step {buf len : Nat} {s t : State} (h : execI2cRead buf len s = .next t) :
    HostStep s (.i2cRead buf len) t := by
  unfold execI2cRead at h
  split at h
  next b n k hop => exact .atPosition _ hop rfl (receiveByte_step h)
  next hno =>
    obtain rfl := Host.Outcome.next.inj h
    refine .first (fun p hop => ?_) (transferFirst_step rfl (by simp [opOf, refusalsOf]) (by simp [opOf, refusalsOf])
      fun hg hbuf hlen hidle hw =>
      .opens _ _ rfl hg ⟨rfl, rfl, hlen, hbuf⟩ (Role.eq_master_r hidle hw) rfl nofun)
    cases p with
    | rxPhase b n k => exact absurd hop (hno b n k)
    | _ => rfl

theorem execPllCfg_step {m : BitVec 6} {n : BitVec 9} {p psrc : BitVec 2} {q : BitVec 4} {r : BitVec 3} {nul : Bool}
    {s t : State} (h : execPllCfg m n p psrc q r nul s = .next t) : FirstStep s (.pllCfg m n p psrc q r nul) t := by
  obtain rfl := Host.Outcome.next.inj h
  split_ifs
  · exact .returns _ _ (by simp [opOf, resultsOf])
  · exact .refuses _ _ (by simp [opOf, refusalsOf])
  · split
    · exact .pllCfg m n p psrc q r nul _ _ (by simp [resultsOf])
    · exact .pllCfg m n p psrc q r nul _ _ (by simp [resultsOf])

theorem prescale_step {i : Instr} {b : PrescBus} {code : Byte} {write : State → State} {s : State}
    (hbad : .invalidPrescaler b ∈ resultsOf (opOf i))
    (hwrite : code ∈ prescLegal s.params b → FirstStep s i ((write s).finish .ok)) :
    FirstStep s i (prescale b code write s) := by
  obtain ⟨hc, h⟩ | ⟨-, h⟩ := prescale_cases b code write s <;> rw [h]
  · exact hwrite hc
  · exact .returns i _ hbad

theorem gate_step {i : Instr} {bus : BitVec 3} {bit : Nat} {bad : Result} {write : Bus → State → State} {s : State}
    (hbus : .invalidBus ∈ resultsOf (opOf i)) (hbad : bad ∈ resultsOf (opOf i))
    (hwrite : ∀ b, busOfCode bus = some b → legalBit s.params b bit = true → FirstStep s i (write b s)) :
    FirstStep s i (gate bus bit bad write s) := by
  obtain ⟨-, h⟩ | ⟨b, hb, ⟨-, h⟩ | ⟨hl, h⟩⟩ := gate_cases bus bit bad write s <;> rw [h]
  · exact .returns i _ hbus
  · exact .returns i _ hbad
  · exact hwrite b hb hl

theorem execPeriphDis_step {bus : BitVec 3} {bit : Nat} {s t : State} (h : execPeriphDis bus bit s = .next t) :
    FirstStep s (.periphDis bus bit) t := by
  obtain rfl := Host.Outcome.next.inj h
  refine gate_step (by simp [opOf, resultsOf]) (by simp [opOf, resultsOf]) fun b hb hl => ?_
  split
  · exact .refuses _ _ (by simp [opOf, refusalsOf])
  next hm => exact .periphDis bus b bit hb hl (Bool.not_eq_true _ ▸ hm)

theorem delay_step {i : Instr} (n max : Nat) (s : State) (hok : .ok ∈ resultsOf (opOf i))
    (hrange : .delayRange ∈ refusalsOf (opOf i)) : FirstStep s i (delay n max s) := by
  obtain ⟨-, -, h⟩ | ⟨-, h⟩ := delay_cases n max s <;> rw [h]
  · exact .returns i _ hok
  · exact .refuses i _ hrange

theorem execI2cInit_step {freq : BitVec 6} {own : BitVec 10} {am : BitVec 1} {s t : State}
    (h : execI2cInit freq own am s = .next t) : FirstStep s (.i2cInit freq own am) t := by
  obtain ⟨-, hs⟩ | ⟨-, -, hs⟩ | ⟨-, hr, hs⟩ := execI2cInit_cases freq own am s <;>
    obtain rfl := Host.Outcome.next.inj (hs.symm.trans h)
  · exact .refuses _ _ (by simp [opOf, refusalsOf])
  · exact .refuses _ _ (by simp [opOf, refusalsOf])
  · exact .i2cInit freq own am hr

theorem execI2cStop_step {s t : State} (h : execI2cStop s = .next t) : FirstStep s .i2cStop t := by
  obtain rfl := Host.Outcome.next.inj h
  split_ifs with hclosed
  · exact .returns _ _ (by simp [opOf, resultsOf])
  · exact .i2cStop fun hrole => hclosed (.inr (.inr hrole))

/-- What one host step of any operation can be. -/
theorem exec_cases {i : Instr} {s t : State} (h : exec i s = .next t) : HostStep s i t := by
  cases i with
  | clkState src state => exact execClkState_step h
  | pllCfg m n p psrc q r nul => exact .first (fun _ _ => rfl) (execPllCfg_step h)
  | setSysClk sel => obtain rfl := Host.Outcome.next.inj h; exact .first (fun _ _ => rfl) (.setSysClk sel)
  | getSysClk => obtain rfl := Host.Outcome.next.inj h; exact .first (fun _ _ => rfl) .getSysClk
  | ahbPre code =>
    obtain rfl := Host.Outcome.next.inj h
    exact .first (fun _ _ => rfl) (prescale_step (by simp [opOf, resultsOf]) (.ahbPre code))
  | apb1Pre code =>
    obtain rfl := Host.Outcome.next.inj h
    exact .first (fun _ _ => rfl) (prescale_step (by simp [opOf, resultsOf]) (.apb1Pre code))
  | apb2Pre code =>
    obtain rfl := Host.Outcome.next.inj h
    exact .first (fun _ _ => rfl) (prescale_step (by simp [opOf, resultsOf]) (.apb2Pre code))
  | periphEn bus bit =>
    obtain rfl := Host.Outcome.next.inj h
    exact .first (fun _ _ => rfl) (gate_step (by simp [opOf, resultsOf]) (by simp [opOf, resultsOf])
      fun b hb hl => .periphEn bus b bit hb hl)
  | periphDis bus bit => exact .first (fun _ _ => rfl) (execPeriphDis_step h)
  | delayMs n =>
    obtain rfl := Host.Outcome.next.inj h
    exact .first (fun _ _ => rfl) (delay_step n _ s (by simp [opOf, resultsOf]) (by simp [opOf, refusalsOf]))
  | delayUs n =>
    obtain rfl := Host.Outcome.next.inj h
    exact .first (fun _ _ => rfl) (delay_step n _ s (by simp [opOf, resultsOf]) (by simp [opOf, refusalsOf]))
  | i2cInit freq own am => exact .first (fun _ _ => rfl) (execI2cInit_step h)
  | i2cStart a d => exact execI2cStart_step h
  | i2cRestart a d => exact execI2cRestart_step h
  | i2cWrite buf len => exact execI2cWrite_step h
  | i2cRead buf len => exact execI2cRead_step h
  | i2cStop => exact .first (fun _ _ => rfl) (execI2cStop_step h)

/-- No operation faults or is refused by the model where an open byte phase is inside host memory. -/
theorem exec_answers (i : Instr) (s : State)
    (hmem : ∀ b n k, s.host.op = some (.txPhase b n k) ∨ s.host.op = some (.rxPhase b n k) → b + k < Memory.size) :
    ∃ t, exec i s = .next t := by
  cases i with
  | i2cWrite buf len =>
    show ∃ t, execI2cWrite buf len s = .next t
    unfold execI2cWrite
    split
    next b n k hop =>
      obtain ⟨t, ht, -⟩ := sendByte_cases b n k s (hmem b n k (.inl hop))
      exact ⟨t, ht⟩
    next => exact ⟨_, rfl⟩
  | i2cRead buf len =>
    show ∃ t, execI2cRead buf len s = .next t
    unfold execI2cRead
    split
    next b n k hop =>
      obtain ⟨t, ht, -⟩ := receiveByte_cases b n k s (hmem b n k (.inr hop))
      exact ⟨t, ht⟩
    next => exact ⟨_, rfl⟩
  | _ => exact ⟨_, rfl⟩

end Sys2Proof.Machine

namespace Sys2Proof.Machine

/-! ### The ends of an operation's step (60_exceptions.md section 1, result table) -/

/-- The updates between `s` and `u` leave alone where the host stands and what stops it. -/
structure SamePlace (s u : State) : Prop where
  pc : u.host.pc = s.host.pc
  status : u.host.status = s.host.status
  op : u.host.op = s.host.op
  hung : u.host.hung = s.host.hung
  refused : u.refused = s.refused
  prog : u.prog = s.prog

theorem SamePlace.of_host_eq {s u : State} (hhost : u.host = s.host) (hrefused : u.refused = s.refused)
    (hprog : u.prog = s.prog) : SamePlace s u where
  pc := by rw [hhost]
  status := by rw [hhost]
  op := by rw [hhost]
  hung := by rw [hhost]
  refused := hrefused
  prog := hprog

/-- How one step of `i` from `s` ends: with a result, a refusal or a hang that the result table lists for `i`, at a next
position of `i`, or, waiting for the bus, where it was. -/
inductive OperationEnd (s : State) (i : Instr) : State → Prop
  | returns (r : Result) (u : State) (hr : r ∈ resultsOf (opOf i)) (hu : SamePlace s u) :
    OperationEnd s i (u.finish r)
  | refuses (reason : RefusedReason) (hr : reason ∈ refusalsOf (opOf i)) : OperationEnd s i (s.raise reason)
  | hangs (reason : HangReason) (u : State) (hi : mayHang (opOf i) = true) (hu : SamePlace s u) :
    OperationEnd s i (u.hang reason)
  | goesOn (p : Position) (u : State) (hu : SamePlace s u)
    (hp : (∀ q, s.host.op = some q → q.belongs i) → p.belongs i) : OperationEnd s i (u.goOn p)
  | waits (hop : s.host.op ≠ none) : OperationEnd s i s

theorem Position.isOf_clkPoll {o : Op} {x : Src} {k : Nat} (h : (Position.clkPoll x k).isOf o = true) :
    o = .clkState := by
  cases o <;> simp_all [Position.isOf]

/-- An operation with a position on the bus is one that R178 and R237 name: it may hang, return Ok and return Failed. -/
theorem Position.isOf_onBus {o : Op} {p : Position} (h : p.isOf o = true) (hp : p.onBus = true) : guarded o = true := by
  cases o <;> cases p <;> simp_all [Position.isOf, Position.onBus, guarded]

theorem mayHang_of_guarded {o : Op} (h : guarded o = true) : mayHang o = true := h

theorem resultsOf_guarded {o : Op} (h : guarded o = true) : resultsOf o = [.ok, .failed] := by
  obtain rfl | rfl | rfl | rfl := (guarded_iff o).mp h <;> rfl

theorem startPosition_onBus (rep : Bool) (a : BitVec 7) (d : Dir) : (startPosition rep a d).onBus = true := by
  cases rep <;> rfl

/-- After the start the address byte is next, in the same operation. -/
theorem Position.belongs_addrPhase {i : Instr} {rep : Bool} {a : BitVec 7} {d : Dir}
    (h : (startPosition rep a d).belongs i) : (Position.addrPhase rep a d).belongs i := by
  cases rep <;> cases i <;> simp_all [startPosition, Position.belongs]

theorem Position.belongs_next_tx {i : Instr} {buf len k : Nat} (h : (Position.txPhase buf len k).belongs i)
    (hk : k + 1 < len) : (Position.txPhase buf len (k + 1)).belongs i := by
  cases i with
  | i2cWrite b n =>
    obtain ⟨hb, hn, -, hsize⟩ := h
    exact ⟨hb, hn, hn ▸ hk, hsize⟩
  | _ => exact h

theorem Position.belongs_next_rx {i : Instr} {buf len k : Nat} (h : (Position.rxPhase buf len k).belongs i)
    (hk : k + 1 < len) : (Position.rxPhase buf len (k + 1)).belongs i := by
  cases i with
  | i2cRead b n =>
    obtain ⟨hb, hn, -, hsize⟩ := h
    exact ⟨hb, hn, hn ▸ hk, hsize⟩
  | _ => exact h

theorem SamePlace.refl (s : State) : SamePlace s s := .of_host_eq rfl rfl rfl

theorem OperationEnd.fails {i : Instr} {s u : State} (f : Failure) (hi : guarded (opOf i) = true)
    (hu : SamePlace s u) : OperationEnd s i (u.fails f) := by
  refine .returns .failed (u.applyFail f) (by simp [resultsOf_guarded hi]) ?_
  constructor <;> simp [hu.pc, hu.status, hu.op, hu.hung, hu.refused, hu.prog]

theorem PositionStep.end {i : Instr} {p : Position} {s t : State} (hop : s.host.op = some p)
    (hp : p.isOf (opOf i) = true) (h : PositionStep s p t) : OperationEnd s i t := by
  have hbus : p.onBus = true → guarded (opOf i) = true := Position.isOf_onBus hp
  cases h with
  | pollReady x k hr => exact .returns _ _ (by simp [Position.isOf_clkPoll hp, resultsOf]) (.of_host_eq rfl rfl rfl)
  | pollLast x k hr hk => exact .returns _ _ (by simp [Position.isOf_clkPoll hp, resultsOf]) (.of_host_eq rfl rfl rfl)
  | pollAgain x k hr hk =>
    refine .goesOn _ s (.refl s) fun hq => ?_
    have hbelongs := hq _ hop
    cases i <;> exact hbelongs
  | waits a d hbusy => exact .waits (by simp [hop])
  | startStalls _ rep a d hp =>
    subst hp
    exact .hangs _ s (mayHang_of_guarded (hbus (startPosition_onBus rep a d))) (.refl s)
  | startFails _ rep a d hp e =>
    subst hp
    exact .fails _ (hbus (startPosition_onBus rep a d)) (.of_host_eq rfl rfl rfl)
  | started _ rep a d hp =>
    subst hp
    exact .goesOn _ _ (.of_host_eq rfl rfl rfl) fun hq => Position.belongs_addrPhase (hq _ hop)
  | addressStalls rep a d => exact .hangs _ s (mayHang_of_guarded (hbus rfl)) (.refl s)
  | addressAcked rep a d => exact .returns _ _ (by simp [resultsOf_guarded (hbus rfl)]) (.of_host_eq rfl rfl rfl)
  | addressFails rep a d r f hf => exact .fails f (hbus rfl) (.of_host_eq rfl rfl rfl)
  | sendStalls buf len k => exact .hangs _ s (mayHang_of_guarded (hbus rfl)) (.refl s)
  | sendFails buf len k r f => exact .fails f (hbus rfl) (.of_host_eq rfl rfl rfl)
  | sentLast buf len k hk => exact .returns _ _ (by simp [resultsOf_guarded (hbus rfl)]) (.of_host_eq rfl rfl rfl)
  | sent buf len k hk =>
    refine .goesOn _ _ (.of_host_eq rfl rfl rfl) fun hq => Position.belongs_next_tx (hq _ hop) hk
  | receiveStalls buf len k => exact .hangs _ _ (mayHang_of_guarded (hbus rfl)) (.of_host_eq rfl rfl rfl)
  | receiveFails buf len k e => exact .fails _ (hbus rfl) (.of_host_eq rfl rfl rfl)
  | receivedLast buf len k v ha hk =>
    exact .returns _ _ (by simp [resultsOf_guarded (hbus rfl)]) ⟨rfl, rfl, rfl, rfl, rfl, rfl⟩
  | received buf len k v ha hk =>
    exact .goesOn _ _ ⟨rfl, rfl, rfl, rfl, rfl, rfl⟩ fun hq => Position.belongs_next_rx (hq _ hop) hk

theorem FirstStep.end {i : Instr} {s t : State} (h : FirstStep s i t) : OperationEnd s i t := by
  cases h with
  | returns _ r hr => exact .returns r s hr (.refl s)
  | refuses _ reason hr => exact .refuses reason hr
  | clkOff src state x hx hu => exact .returns _ _ (by simp [opOf, resultsOf]) (.of_host_eq rfl rfl rfl)
  | clkOn src state x hx => exact .goesOn _ _ (.of_host_eq rfl rfl rfl) fun _ => hx
  | pllCfg m n p psrc q r nul pll res hres => exact .returns res _ hres (.of_host_eq rfl rfl rfl)
  | setSysClk sel => exact .returns _ _ (by simp [opOf, resultsOf]) (.of_host_eq rfl rfl rfl)
  | getSysClk => exact .returns _ _ (by simp [opOf, resultsOf]) ⟨rfl, rfl, rfl, rfl, rfl, rfl⟩
  | ahbPre code hc => exact .returns _ _ (by simp [opOf, resultsOf]) (.of_host_eq rfl rfl rfl)
  | apb1Pre code hc => exact .returns _ _ (by simp [opOf, resultsOf]) (.of_host_eq rfl rfl rfl)
  | apb2Pre code hc => exact .returns _ _ (by simp [opOf, resultsOf]) (.of_host_eq rfl rfl rfl)
  | periphEn bus b bit hb hl => exact .returns _ _ (by simp [opOf, resultsOf]) (.of_host_eq rfl rfl rfl)
  | periphDis bus b bit hb hl hm => exact .returns _ _ (by simp [opOf, resultsOf]) (.of_host_eq rfl rfl rfl)
  | i2cInit freq own am hr => exact .returns _ _ (by simp [opOf, resultsOf]) (.of_host_eq rfl rfl rfl)
  | stale _ hi => exact .returns _ _ (by simp [resultsOf_guarded hi]) (.of_host_eq rfl rfl rfl)
  | empty _ hi => exact .returns _ _ (by simp [resultsOf_guarded hi]) (.of_host_eq rfl rfl rfl)
  | noTransaction _ hi => exact .hangs _ _ (mayHang_of_guarded hi) (.of_host_eq rfl rfl rfl)
  | opens _ p hi hguard hp hfits hbus hnew => exact .goesOn p _ (.of_host_eq rfl rfl rfl) fun _ => hp
  | i2cStop =>
    exact .returns _ _ (by simp [opOf, resultsOf])
      (.of_host_eq (by simp) (by simp) (by simp))

theorem exec_operationEnd {i : Instr} {s t : State} (h : exec i s = .next t) : OperationEnd s i t := by
  cases exec_cases h with
  | atPosition p hop hp hstep => exact hstep.end hop hp
  | first hop hstep => exact hstep.end

/-- Settles O10: a step answers while its byte is inside host memory, and each of its ends is one the table lists. -/
theorem resultTable : Obligations.ResultTable := by
  intro i s hrefused hhung hmem
  obtain ⟨t, ht⟩ := exec_answers i s hmem
  refine ⟨t, ht, ?_⟩
  cases exec_operationEnd ht with
  | returns r u hr hu =>
    exact ⟨fun _ h => (by simp [hu.refused, hrefused] at h), fun h => absurd (hu.hung.trans hhung) h, fun _ _ _ => hr⟩
  | refuses reason hr =>
    exact ⟨fun _ h => Option.some.inj h ▸ hr, fun h => absurd hhung h, fun h => nomatch h⟩
  | hangs reason u hi hu =>
    exact ⟨fun _ h => (by simp [hu.refused, hrefused] at h), fun _ => hi, fun _ h => nomatch h⟩
  | goesOn p u hu hp =>
    exact ⟨fun _ h => (by simp [hu.refused, hrefused] at h), fun h => absurd (hu.hung.trans hhung) h,
      fun _ _ h => nomatch h⟩
  | waits hop =>
    exact ⟨fun _ h => (by simp [hrefused] at h), fun h => absurd hhung h, fun _ _ h => absurd h hop⟩

end Sys2Proof.Machine

namespace Sys2Proof.Machine

/-! ### Frames of a host step (10_state.md sections 2 to 4) -/

section
variable (s : State)

@[simp] theorem State.fails_rcc (f : Failure) : (s.fails f).rcc = s.rcc := by simp [State.fails]
@[simp] theorem State.fails_wire (f : Failure) : (s.fails f).wire = s.wire := by simp [State.fails]
@[simp] theorem State.fails_prog (f : Failure) : (s.fails f).prog = s.prog := by simp [State.fails]
@[simp] theorem State.fails_params (f : Failure) : (s.fails f).params = s.params := by simp [State.fails]
@[simp] theorem State.fails_env (f : Failure) : (s.fails f).env = s.env := by simp [State.fails]
@[simp] theorem State.fails_val (f : Failure) : (s.fails f).host.val = s.host.val := by simp [State.fails]
@[simp] theorem State.fails_mem (f : Failure) : (s.fails f).host.mem = s.host.mem := by simp [State.fails]
@[simp] theorem State.fails_hung (f : Failure) : (s.fails f).host.hung = s.host.hung := by simp [State.fails]

variable (buf len k : Nat) (v : Byte)

@[simp] theorem State.received_rcc : (s.received buf len k v).rcc = s.rcc := rfl
@[simp] theorem State.received_wire :
    (s.received buf len k v).wire = s.wire ++ [.rx v (wireAck (decide (len ≤ k + 1)) s)] := rfl
@[simp] theorem State.received_prog : (s.received buf len k v).prog = s.prog := rfl
@[simp] theorem State.received_params : (s.received buf len k v).params = s.params := rfl
@[simp] theorem State.received_env : (s.received buf len k v).env = s.env := rfl
@[simp] theorem State.received_val : (s.received buf len k v).host.val = s.host.val := rfl
@[simp] theorem State.received_mem : (s.received buf len k v).host.mem = s.host.mem.put (buf + k) v := rfl
@[simp] theorem State.received_hung : (s.received buf len k v).host.hung = s.host.hung := rfl

end

theorem State.prefix_extraByte_wire (s : State) : s.wire <+: s.extraByte.wire := by
  rw [State.extraByte_eq]
  exact List.prefix_append _ _

/-- What no host step writes: the ready flags, the SYSCLK status and the arguments of the run; and the wire only
grows. -/
structure HostFrame (s t : State) : Prop where
  rdy : t.rcc.rdy = s.rcc.rdy
  sws : t.rcc.sws = s.rcc.sws
  wire : s.wire <+: t.wire
  prog : t.prog = s.prog
  params : t.params = s.params
  env : t.env = s.env

theorem PositionStep.frame {p : Position} {s t : State} (h : PositionStep s p t) : HostFrame s t := by
  cases h <;> constructor <;> simp

theorem FirstStep.frame {i : Instr} {s t : State} (h : FirstStep s i t) : HostFrame s t := by
  cases h with
  | i2cStop =>
    have hwire : s.wire <+: s.extraByte.wire ++ [WireEvent.stop] :=
      (State.prefix_extraByte_wire s).trans (List.prefix_append _ _)
    constructor <;> simp [hwire]
  | _ => constructor <;> simp

theorem exec_frame {i : Instr} {s t : State} (h : exec i s = .next t) : HostFrame s t := by
  cases exec_cases h with
  | atPosition p hop hp hstep => exact hstep.frame
  | first hop hstep => exact hstep.frame

/-- A host step of another unit leaves the RCC part alone. -/
theorem exec_rcc_of_onI2c {i : Instr} {s t : State} (h : exec i s = .next t) (hi : onI2c (opOf i) = true) :
    t.rcc = s.rcc := by
  cases exec_cases h with
  | atPosition p hop hp hstep =>
    cases hstep with
    | pollReady x k hr | pollLast x k hr hk | pollAgain x k hr hk =>
      rw [Position.isOf_clkPoll hp] at hi
      cases hi
    | _ => simp
  | first hop hstep =>
    cases hstep with
    | returns | refuses | i2cInit | stale | empty | noTransaction | opens | i2cStop => simp
    | _ => cases hi

/-! #### Who writes each field of the RCC part (10_state.md section 2) -/

/-- The writes of operation `o` to the RCC part: each field only by its own operation. -/
structure RccWrites (o : Op) (x y : Rcc) : Prop where
  on : o ≠ .clkState → y.on = x.on
  clk : o ≠ .clkState → y.clk = x.clk
  pll : o ≠ .pllCfg → y.pll = x.pll
  sw : o ≠ .setSysClk → y.sw = x.sw
  hpre : o ≠ .ahbPre → y.hpre = x.hpre
  ppre1 : o ≠ .apb1Pre → y.ppre1 = x.ppre1
  ppre2 : o ≠ .apb2Pre → y.ppre2 = x.ppre2
  enr : o ≠ .periphEn → o ≠ .periphDis → y.enr = x.enr

theorem RccWrites.refl (o : Op) (x : Rcc) : RccWrites o x x := by constructor <;> intros <;> rfl

theorem exec_rccWrites {i : Instr} {s t : State} (h : exec i s = .next t) : RccWrites (opOf i) s.rcc t.rcc := by
  by_cases hi : onI2c (opOf i) = true
  · rw [exec_rcc_of_onI2c h hi]
    exact .refl _ _
  cases exec_cases h with
  | atPosition p hop hp hstep =>
    cases hstep with
    | pollReady | pollLast | pollAgain => constructor <;> simp [Position.isOf_clkPoll hp]
    | _ => simp [RccWrites.refl]
  | first hop hstep =>
    cases hstep with
    | returns | refuses | getSysClk | i2cInit | stale | empty | noTransaction | opens | i2cStop =>
      simp [RccWrites.refl]
    | clkOff | clkOn | pllCfg | setSysClk | ahbPre | apb1Pre | apb2Pre | periphEn | periphDis =>
      constructor <;> simp [opOf]

/-! #### Who writes the configuration and the host's other fields (10_state.md sections 3 and 4) -/

/-- The five configuration fields of the I2C part are as they were. -/
structure SameConfig (x y : I2c) : Prop where
  inited : y.inited = x.inited
  pe : y.pe = x.pe
  freq : y.freq = x.freq
  addmode : y.addmode = x.addmode
  own : y.own = x.own

theorem SameConfig.fails {s u : State} (f : Failure) (h : SameConfig s.i2c u.i2c) :
    SameConfig s.i2c (u.fails f).i2c := by
  cases f <;> exact ⟨h.inited, h.pe, h.freq, h.addmode, h.own⟩

theorem exec_sameConfig {i : Instr} {s t : State} (h : exec i s = .next t) (hi : opOf i ≠ .i2cInit) :
    SameConfig s.i2c t.i2c := by
  cases exec_cases h with
  | atPosition p hop hp hstep =>
    cases hstep with
    | startFails | addressFails | sendFails | receiveFails => exact .fails _ ⟨rfl, rfl, rfl, rfl, rfl⟩
    | _ => exact ⟨rfl, rfl, rfl, rfl, rfl⟩
  | first hop hstep =>
    cases hstep with
    | i2cInit => exact absurd rfl hi
    | i2cStop => constructor <;> simp [State.releaseBus]
    | _ => exact ⟨rfl, rfl, rfl, rfl, rfl⟩

theorem exec_val {i : Instr} {s t : State} (h : exec i s = .next t) (hi : opOf i ≠ .getSysClk) :
    t.host.val = s.host.val := by
  cases exec_cases h with
  | atPosition p hop hp hstep => cases hstep <;> simp
  | first hop hstep =>
    cases hstep with
    | getSysClk => exact absurd rfl hi
    | _ => simp

theorem Position.isOf_rxPhase {o : Op} {buf len k : Nat} (h : (Position.rxPhase buf len k).isOf o = true) :
    o = .i2cRead := by
  cases o <;> simp_all [Position.isOf]

/-- Host memory after a host step: as it was, or one byte of an open ReadData written. -/
theorem exec_mem {i : Instr} {s t : State} (h : exec i s = .next t) :
    t.host.mem = s.host.mem ∨
      ∃ buf len k v, opOf i = .i2cRead ∧ s.host.op = some (.rxPhase buf len k) ∧ buf + k < Memory.size ∧
        t.host.mem = s.host.mem.put (buf + k) v := by
  cases exec_cases h with
  | atPosition p hop hp hstep =>
    cases hstep with
    | receivedLast buf len k v ha hk => exact .inr ⟨buf, len, k, v, Position.isOf_rxPhase hp, hop, ha, rfl⟩
    | received buf len k v ha hk => exact .inr ⟨buf, len, k, v, Position.isOf_rxPhase hp, hop, ha, rfl⟩
    | _ => exact .inl (by simp)
  | first hop hstep => cases hstep <;> exact .inl (by simp)

theorem exec_mem_of_not_read {i : Instr} {s t : State} (h : exec i s = .next t) (hi : opOf i ≠ .i2cRead) :
    t.host.mem = s.host.mem := by
  obtain hmem | ⟨_, _, _, _, hread, -⟩ := exec_mem h
  · exact hmem
  · exact absurd hread hi

/-- Settles O19: the fields no host step writes, then the writers of each part. -/
theorem fieldWriters : Obligations.FieldWriters := by
  intro i s t h
  obtain ⟨hrdy, hsws, -, hprog, hparams, henv⟩ := exec_frame h
  obtain ⟨hon, hclk, hpll, hsw, hhpre, hppre1, hppre2, henr⟩ := exec_rccWrites h
  refine ⟨hrdy, hsws, hprog, hparams, henv, fun hi => ⟨hon hi, hclk hi⟩, hpll, hsw, exec_val h, hhpre, hppre1, hppre2,
    henr, fun hi => ?_, fun hi a => ?_⟩
  · obtain ⟨hinited, hpe, hfreq, haddmode, hown⟩ := exec_sameConfig h hi
    exact ⟨hinited, hpe, hfreq, haddmode, hown⟩
  · exact congrArg (Memory.byte · a) (exec_mem_of_not_read h hi)

/-! #### The frames of the three groups of operations -/

/-- An operation of the RCC or delay unit leaves the wire and the mark of a hang alone: it has no position on the bus
and no first step of the I2C unit. -/
theorem exec_wire_hung_of_not_onI2c {i : Instr} {s t : State} (h : exec i s = .next t) (hi : onI2c (opOf i) = false) :
    t.wire = s.wire ∧ t.host.hung = s.host.hung := by
  have hguarded : guarded (opOf i) = false := by
    cases hg : guarded (opOf i) with
    | false => rfl
    | true => obtain ho | ho | ho | ho := (guarded_iff _).mp hg <;> simp [ho, onI2c] at hi
  cases exec_cases h with
  | atPosition p hop hp hstep =>
    have hbus : p.onBus = false := by
      cases hb : p.onBus with
      | false => rfl
      | true => rw [Position.isOf_onBus hp hb] at hguarded; cases hguarded
    cases hstep with
    | pollReady | pollLast | pollAgain => exact ⟨rfl, rfl⟩
    | waits => cases hbus
    | startStalls | startFails | started => simp_all [startPosition_onBus]
    | _ => cases hbus
  | first hop hstep =>
    cases hstep with
    | stale | empty | noTransaction | opens => simp_all
    | i2cInit | i2cStop => cases hi
    | _ => exact ⟨rfl, rfl⟩

/-- SetClockState writes the enable bit and the phase of its own source alone. -/
theorem execClkState_other_source {src : BitVec 3} {state : BitVec 2} {y : Src} {s t : State}
    (h : exec (.clkState src state) s = .next t) (hsrc : srcOfCode src ≠ some y)
    (hpoll : ∀ k, s.host.op ≠ some (.clkPoll y k)) :
    t.rcc.on.get y = s.rcc.on.get y ∧ t.rcc.clk.get y = s.rcc.clk.get y := by
  cases exec_cases h with
  | atPosition p hop hp hstep =>
    cases hstep with
    | pollReady x k | pollLast x k =>
      have hne : y ≠ x := by rintro rfl; exact hpoll k hop
      simp [PerSrc.get_set_other _ _ _ _ hne]
    | _ => simp
  | first hop hstep =>
    cases hstep with
    | clkOff _ _ x hx | clkOn _ _ x hx =>
      have hne : y ≠ x := by rintro rfl; exact hsrc hx
      simp [PerSrc.get_set_other _ _ _ _ hne]
    | _ => simp

/-- Settles O20: the frames of the I2C part, the wire, host memory and the hang, and SetClockState's other sources. -/
theorem rccFrame : Obligations.RccFrame := by
  intro i s t h hi
  obtain ⟨hwire, hhung⟩ := exec_wire_hung_of_not_onI2c h hi
  refine ⟨exec_i2c_of_not_onI2c h hi, hwire, fun a => ?_, hhung, ?_⟩
  · have hread : opOf i ≠ .i2cRead := by rintro ho; rw [ho] at hi; cases hi
    exact congrArg (Memory.byte · a) (exec_mem_of_not_read h hread)
  · rintro src state y rfl hsrc hpoll
    exact execClkState_other_source h hsrc hpoll

/-- A word whose only bit is bit k, or that is 0 where k is past the word, has no other bit. -/
theorem getLsbD_one_shiftLeft_of_ne {k j : Nat} (h : j ≠ k) : (1#32 <<< k).getLsbD j = false := by
  rw [BitVec.getLsbD_shiftLeft, BitVec.getLsbD_one]
  simp only [Bool.and_eq_false_imp, Bool.and_eq_true, decide_eq_true_eq, Bool.not_eq_true', decide_eq_false_iff_not]
  omega

theorem getLsbD_setBit_of_ne (w : Word) {k j : Nat} (h : j ≠ k) : (setBit w k).getLsbD j = w.getLsbD j := by
  rw [setBit, BitVec.getLsbD_or, getLsbD_one_shiftLeft_of_ne h, Bool.or_false]

theorem getLsbD_clearBit_of_ne (w : Word) {k j : Nat} (h : j ≠ k) : (clearBit w k).getLsbD j = w.getLsbD j := by
  rw [clearBit, BitVec.getLsbD_and, BitVec.getLsbD_not, getLsbD_one_shiftLeft_of_ne h]
  by_cases hj : j < 32
  · simp [hj]
  · simp [BitVec.getLsbD_of_ge w j (by omega)]

/-- A gate word written on one bus at one bit reads as before at every other place. -/
theorem enr_set_getLsbD {enr : PerBus Word} {b c : Bus} {w : Word} {k : Nat}
    (hw : b = c → w.getLsbD k = (enr.get b).getLsbD k) :
    ((enr.set b w).get c).getLsbD k = (enr.get c).getLsbD k := by
  rw [PerBus.get_set]
  split
  next hc => subst hc; exact hw rfl
  next => rfl

/-- A gate operation writes the bit it names alone. -/
theorem exec_gate_other_bit {i : Instr} {bus : BitVec 3} {bit : Nat} {s t : State}
    (hi : i = .periphEn bus bit ∨ i = .periphDis bus bit) (h : exec i s = .next t) {b : Bus} {k : Nat}
    (hother : busOfCode bus ≠ some b ∨ k ≠ bit) :
    (t.rcc.enr.get b).getLsbD k = (s.rcc.enr.get b).getLsbD k := by
  have hbit : ∀ c, busOfCode bus = some c → c = b → k ≠ bit := by
    rintro c hc rfl
    exact hother.resolve_left (not_not_intro hc)
  obtain rfl | rfl := hi
  · cases exec_cases h with
    | atPosition p hop hp hstep => cases hp
    | first hop hstep =>
      cases hstep with
      | periphEn _ c _ hc hl => exact enr_set_getLsbD fun hb => getLsbD_setBit_of_ne _ (hbit c hc hb)
      | _ => rfl
  · cases exec_cases h with
    | atPosition p hop hp hstep => cases hp
    | first hop hstep =>
      cases hstep with
      | periphDis _ c _ hc hl hm => exact enr_set_getLsbD fun hb => getLsbD_clearBit_of_ne _ (hbit c hc hb)
      | _ => rfl

/-- Settles O21: the two operations write one bit of one gate word. -/
theorem gateFrame : Obligations.GateFrame := fun _ _ _ _ _ hi h _ _ hother => exec_gate_other_bit hi h hother

/-! #### The frame of the I2C operations -/

/-- The acknowledge enable changes at a byte of ReadData and in a Stop alone. -/
theorem exec_ack {i : Instr} {s t : State} (h : exec i s = .next t) (hread : opOf i ≠ .i2cRead)
    (hstop : opOf i ≠ .i2cStop) : t.i2c.ack = s.i2c.ack := by
  cases exec_cases h with
  | atPosition p hop hp hstep =>
    cases hstep with
    | startFails | addressFails | sendFails => simp [State.fails]
    | receiveStalls | receiveFails | receivedLast | received => exact absurd (Position.isOf_rxPhase hp) hread
    | _ => rfl
  | first hop hstep =>
    cases hstep with
    | i2cStop => exact absurd rfl hstop
    | _ => rfl

/-- The tail mark is set by the last byte of a ReadData alone. -/
theorem exec_rxTail {i : Instr} {s t : State} (h : exec i s = .next t) (hread : opOf i ≠ .i2cRead)
    (ht : t.i2c.rxTail = true) : s.i2c.rxTail = true := by
  cases exec_cases h with
  | atPosition p hop hp hstep =>
    cases hstep with
    | startFails | addressFails | sendFails => simpa [State.fails] using ht
    | receiveStalls | receiveFails | receivedLast | received => exact absurd (Position.isOf_rxPhase hp) hread
    | _ => exact ht
  | first hop hstep =>
    cases hstep with
    | stale | empty | noTransaction | opens | i2cStop => cases ht
    | _ => exact ht

theorem Position.isOf_of_belongs {p : Position} {i : Instr} (h : p.belongs i) : p.isOf (opOf i) = true := by
  cases i <;> cases p <;> simp_all [Position.belongs, Position.isOf, opOf]

/-- A Running host at an operation that is no ReadData has the acknowledge enable clear (`AckInv`). -/
theorem ack_eq_false_of_not_read {i : Instr} {s : State} (hinv : s.Inv) (hrun : s.host.status = .running)
    (hcur : s.current = some i) (hread : opOf i ≠ .i2cRead) : s.i2c.ack = false := by
  cases hack : s.i2c.ack with
  | false => rfl
  | true =>
    obtain ⟨buf, len, k, hop⟩ := hinv.ack hack hrun
    obtain ⟨j, hj, hbelongs⟩ := hinv.host.position _ hop
    obtain rfl := Option.some.inj (hcur.symm.trans hj)
    exact absurd (Position.isOf_rxPhase (Position.isOf_of_belongs hbelongs)) hread

theorem exec_i2cStop_ack {s t : State} (h : exec .i2cStop s = .next t) (hs : s.i2c.ack = false) :
    t.i2c.ack = false := by
  cases exec_cases h with
  | atPosition p hop hp hstep => cases hp
  | first hop hstep =>
    cases hstep with
    | returns | refuses => exact hs
    | stale _ hi | empty _ hi | noTransaction _ hi | opens _ p hi => cases hi
    | i2cStop => rfl

theorem exec_ack_of_inv {i : Instr} {s t : State} (h : exec i s = .next t) (hinv : s.Inv)
    (hrun : s.host.status = .running) (hcur : s.current = some i) (hread : opOf i ≠ .i2cRead) :
    t.i2c.ack = s.i2c.ack := by
  by_cases hstop : opOf i = .i2cStop
  · have hs := ack_eq_false_of_not_read hinv hrun hcur hread
    cases i with
    | i2cStop => rw [exec_i2cStop_ack h hs, hs]
    | _ => cases hstop
  · exact exec_ack h hread hstop

/-- A host step changes no byte of canonical memory but the one a ReadData stores. -/
theorem exec_byteAt {i : Instr} {s t : State} (h : exec i s = .next t) (hmem : s.host.mem.wf) {a : Nat}
    (ha : ∀ b n k, opOf i = .i2cRead → s.host.op = some (.rxPhase b n k) → a ≠ b + k) : t.byteAt a = s.byteAt a := by
  obtain hsame | ⟨buf, len, k, v, hread, hop, -, hput⟩ := exec_mem h
  · exact congrArg (Memory.byte · a) hsame
  · rw [State.byteAt, hput, Memory.byte_put _ _ _ _ hmem.1, if_neg (ha buf len k hread hop)]
    rfl

/-- Settles O22: the RCC part and the value by the writers of the fields, then the acknowledge, the tail mark and the
byte that a ReadData alone writes. -/
theorem i2cFrame : Obligations.I2cFrame := by
  intro i s t h hi
  have hval : opOf i ≠ .getSysClk := by rintro ho; rw [ho] at hi; cases hi
  exact ⟨exec_rcc_of_onI2c h hi, exec_val h hval, exec_ack h, exec_ack_of_inv h, exec_rxTail h,
    fun hmem a ha => exec_byteAt h hmem ha⟩

end Sys2Proof.Machine

namespace Sys2Proof.Machine

/-! ### Runs -/

/-- What every step answers and keeps, every run answers and keeps. -/
theorem run_keeps {P : State → Prop} (hstep : ∀ s, P s → ∃ t, step s = .next t ∧ P t) (n : Nat) {s : State} (hs : P s) :
    ∃ t, Host.Core.run Sys2Proof.core n s = .next t ∧ P t := by
  induction n generalizing s with
  | zero => exact ⟨s, rfl, hs⟩
  | succ n ih =>
    obtain ⟨u, hu, hP⟩ := hstep s hs
    obtain ⟨t, ht, hPt⟩ := ih hP
    exact ⟨t, (run_succ_of_step n hu).trans ht, hPt⟩

/-! ### A host that has stopped (60_exceptions.md section 2) -/

theorem State.hostRuns_eq_false_iff (s : State) :
    s.hostRuns = false ↔ s.refused ≠ none ∨ s.host.hung ≠ none ∨ s.host.status ≠ .running := by
  rw [← Bool.not_eq_true, State.hostRuns_iff]
  tauto

/-- A step of a host that does not run is the environment's, or passes. -/
theorem step_of_stopped {s : State} (hs : s.hostRuns = false) :
    ∃ t, step s = .next t ∧ t.host = s.host ∧ t.refused = s.refused ∧ t.wire = s.wire := by
  cases hm : s.choice.move with
  | none => exact ⟨_, step_of_not_hostRuns hm hs, rfl, rfl, rfl⟩
  | some m => exact ⟨_, step_of_move hm, envMove_host m s, envMove_refused m s, envMove_wire m s⟩

/-- Settles O12: a step keeps the host part and the refusal mark of a stopped host, and they are what stops it. -/
theorem stoppedHostNeverMoves : Obligations.StoppedHostNeverMoves := by
  intro s hs n
  refine run_keeps (P := fun t => t.host = s.host ∧ t.refused = s.refused ∧ t.wire = s.wire) ?_ n ⟨rfl, rfl, rfl⟩
  rintro u ⟨hhost, hrefused, hwire⟩
  have hu : u.hostRuns = false := by rwa [State.hostRuns_eq_false_iff, hhost, hrefused]
  obtain ⟨t, ht, hthost, htrefused, htwire⟩ := step_of_stopped hu
  exact ⟨t, ht, hthost.trans hhost, htrefused.trans hrefused, htwire.trans hwire⟩

/-! ### A start on the bus this controller holds (43_i2c_master.md section 2) -/

@[simp] theorem envMove_prog (m : Move) (s : State) : (envMove m s).prog = s.prog := by
  rw [envMove_writes]

@[simp] theorem envMove_params (m : Move) (s : State) : (envMove m s).params = s.params := by
  rw [envMove_writes]

theorem State.current_congr {s t : State} (hprog : t.prog = s.prog) (hpc : t.host.pc = s.host.pc) :
    t.current = s.current := by
  simp only [State.current, State.fetch, hprog, hpc]

/-- The one step of a start that waits for a bus its own controller holds. -/
theorem step_of_start_holding_bus {a : BitVec 7} {d : Dir} {s : State} (hcur : s.current = some (.i2cStart a d))
    (hop : s.host.op = some (.busWait a d)) (hrole : s.i2c.role ≠ .idle) (hbusy : s.i2c.busy = true) :
    ∃ t, step s = .next t ∧ t.host = s.host ∧ t.i2c = s.i2c ∧ t.wire = s.wire ∧ t.prog = s.prog := by
  cases hm : s.choice.move with
  | some m =>
    exact ⟨_, step_of_move hm, envMove_host m s, envMove_i2c_of_not_idle m hrole, envMove_wire m s, envMove_prog m s⟩
  | none =>
    refine ⟨s.advance, ?_, rfl, rfl, rfl, rfl⟩
    cases hr : s.hostRuns with
    | false => exact step_of_not_hostRuns hm hr
    | true =>
      rw [step_of_current hm hr hcur, exec_i2cStart_busWait hop, startGeneration_of_busy a d hbusy]
      rfl

/-- Settles O53: the wait is of the host, the I2C part and the program alone, and no step changes them. -/
theorem startWhileHoldingBusNeverEnds : Obligations.StartWhileHoldingBusNeverEnds := by
  intro a d s hcur hop hrole hbusy n
  have hkeeps := run_keeps
    (P := fun t => t.host = s.host ∧ t.i2c = s.i2c ∧ t.wire = s.wire ∧ t.prog = s.prog) ?_ n ⟨rfl, rfl, rfl, rfl⟩
  · obtain ⟨t, ht, hhost, hi2c, hwire, -⟩ := hkeeps
    exact ⟨t, ht, hhost, hi2c, hwire⟩
  rintro u ⟨hhost, hi2c, hwire, hprog⟩
  have hucur : u.current = some (.i2cStart a d) := (State.current_congr hprog (by rw [hhost])).trans hcur
  obtain ⟨t, ht, hthost, hti2c, htwire, htprog⟩ :=
    step_of_start_holding_bus hucur (hhost ▸ hop) (hi2c ▸ hrole) (hi2c ▸ hbusy)
  exact ⟨t, ht, hthost.trans hhost, hti2c.trans hi2c, htwire.trans hwire, htprog.trans hprog⟩

/-! ### What a step of the machine writes (20_memory.md section 5, 44_autonomous_steps.md section 1) -/

/-- A step is an autonomous move, or leaves all but a refusal as it was, or is a host step; then the choice is taken. -/
theorem step_next_cases {s t : State} (h : step s = .next t) :
    ∃ u, t = u.advance ∧
      ((∃ m, s.choice.move = some m ∧ u = envMove m s) ∨
       (s.choice.move = none ∧ (u = s ∨ u = s.raise .invalidCommand)) ∨
       (s.choice.move = none ∧ s.hostRuns = true ∧ ∃ i, s.current = some i ∧ exec i s = .next u)) := by
  obtain ⟨m, hm, hs⟩ | ⟨hm, -, hs⟩ | ⟨hm, hr, w, hf, ⟨e, -, hs⟩ | ⟨i, hd, hs⟩⟩ := step_cases s
  · exact ⟨_, (Host.Outcome.next.inj (hs.symm.trans h)).symm, .inl ⟨m, hm, rfl⟩⟩
  · exact ⟨_, (Host.Outcome.next.inj (hs.symm.trans h)).symm, .inr (.inl ⟨hm, .inl rfl⟩)⟩
  · exact ⟨_, (Host.Outcome.next.inj (hs.symm.trans h)).symm, .inr (.inl ⟨hm, .inr rfl⟩)⟩
  · obtain ⟨u, hu, rfl⟩ := of_mapNext_eq_next (hs.symm.trans h)
    exact ⟨u, rfl, .inr (.inr ⟨hm, hr, i, (s.current_eq_some_iff i).mpr ⟨w, hf, hd⟩, hu⟩)⟩

/-- Settles O18: a host step appends to the wire and writes no argument of the run; no other move writes either. -/
theorem wireGrowsAndProgramStays : Obligations.WireGrowsAndProgramStays := by
  intro s t h
  obtain ⟨u, rfl, ⟨m, -, rfl⟩ | ⟨-, rfl | rfl⟩ | ⟨-, -, i, -, hu⟩⟩ := step_next_cases h
  · simp
  · simp
  · simp
  · obtain ⟨-, -, hwire, hprog, hparams, henv⟩ := exec_frame hu
    exact ⟨hwire, hprog, hparams, congrArg (·.turn + 1) henv, congrArg (·.script.tail) henv⟩

/-- An autonomous move changes `sws` by the SYSCLK switch alone (44_autonomous_steps.md R212). -/
theorem envMove_sws {m : Move} {s : State} (h : (envMove m s).rcc.sws ≠ s.rcc.sws) :
    m = .switchSysclk ∧ (envMove m s).rcc.sws = s.rcc.sw ∧ s.rcc.on.get (srcOf s.rcc.sw) = true ∧
      s.rcc.rdy.get (srcOf s.rcc.sw) = true := by
  cases hm : moveEnabled m s with
  | false => rw [envMove_of_not_enabled hm] at h; exact absurd rfl h
  | true =>
    rw [envMove_of_enabled hm] at h ⊢
    cases m with
    | switchSysclk =>
      simp only [moveEnabled, Bool.and_eq_true] at hm
      exact ⟨rfl, rfl, hm.1.2, hm.2⟩
    | readyRises x | readyFalls x | busChange b => exact absurd rfl h

/-- An autonomous move changes a ready flag by the rise or the fall of its source alone (44_autonomous_steps.md R210,
R211). -/
theorem envMove_rdy {m : Move} {s : State} {x : Src} (h : (envMove m s).rcc.rdy.get x ≠ s.rcc.rdy.get x) :
    (m = .readyRises x ∧ s.rcc.on.get x = true) ∨ (m = .readyFalls x ∧ s.rcc.on.get x = false) := by
  cases hm : moveEnabled m s with
  | false => rw [envMove_of_not_enabled hm] at h; exact absurd rfl h
  | true =>
    rw [envMove_of_enabled hm] at h
    cases m with
    | readyRises y =>
      obtain rfl : x = y := by
        by_contra hne
        exact h (PerSrc.get_set_other _ _ _ _ hne)
      simp only [moveEnabled, Bool.and_eq_true] at hm
      exact .inl ⟨rfl, hm.1⟩
    | readyFalls y =>
      obtain rfl : x = y := by
        by_contra hne
        exact h (PerSrc.get_set_other _ _ _ _ hne)
      simp only [moveEnabled, Bool.and_eq_true, Bool.not_eq_true'] at hm
      exact .inr ⟨rfl, hm.1⟩
    | switchSysclk | busChange b => exact absurd rfl h

/-- Settles O17: no host step writes `sws` or a ready flag, and of the moves each writes its own. -/
theorem statusChangesOnlyByEnvironment : Obligations.StatusChangesOnlyByEnvironment := by
  intro s t h
  obtain ⟨u, rfl, ⟨m, hm, rfl⟩ | ⟨-, rfl | rfl⟩ | ⟨-, -, i, -, hu⟩⟩ := step_next_cases h
  · rw [hm]
    refine ⟨fun hsws => ?_, fun x hrdy => ?_⟩
    · obtain ⟨rfl, hrest⟩ := envMove_sws hsws
      exact ⟨rfl, hrest⟩
    · obtain ⟨rfl, hon⟩ | ⟨rfl, hon⟩ := envMove_rdy hrdy
      · exact .inl ⟨rfl, hon⟩
      · exact .inr ⟨rfl, hon⟩
  · exact ⟨fun hsws => absurd rfl hsws, fun x hrdy => absurd rfl hrdy⟩
  · exact ⟨fun hsws => absurd rfl hsws, fun x hrdy => absurd rfl hrdy⟩
  · obtain ⟨hrdy, hsws, -⟩ := exec_frame hu
    exact ⟨fun hne => absurd hsws hne, fun x hne => absurd (congrArg (PerSrc.get · x) hrdy) hne⟩

/-- Settles O8: the host's turn, where nothing stops it. -/
theorem stepRunsDecodedInstruction : Obligations.StepRunsDecodedInstruction := fun s w i hm hrun hrefused hhung hf hd =>
  step_of_current hm (s.hostRuns_iff.mpr ⟨hrun, hrefused, hhung⟩) ((s.current_eq_some_iff i).mpr ⟨w, hf, hd⟩)

/-- A move the state does not admit passes. -/
theorem step_of_not_enabled_move {m : Move} {s : State} (hm : s.choice.move = some m) (h : moveEnabled m s = false) :
    step s = .next s.advance := by
  rw [step_of_move hm, envMove_of_not_enabled h]

/-- Settles O15: each move's condition is its `moveEnabled`, and its effect is one field. -/
theorem readyFallsAndSwitch : Obligations.ReadyFallsAndSwitch := by
  refine ⟨fun x s hm hon hrdy => ?falls, fun x s hm hno => ?staysUp, fun s hm hne hon hrdy => ?switch,
    fun s hm hno => ?staysThere⟩
  case falls =>
    have henabled : moveEnabled (.readyFalls x) s = true := by simp [moveEnabled, hon, hrdy]
    exact ⟨(s.setRdy x false).advance, step_of_enabled_move hm henabled, PerSrc.get_set_same s.rcc.rdy x false,
      fun y hy => PerSrc.get_set_other s.rcc.rdy x y false hy, rfl, rfl, rfl, rfl, rfl⟩
  case staysUp =>
    exact step_of_not_enabled_move hm (by rcases hno with h | h <;> simp [moveEnabled, h])
  case switch =>
    have henabled : moveEnabled .switchSysclk s = true := by simp [moveEnabled, hne, hon, hrdy]
    exact ⟨_, step_of_enabled_move hm henabled, rfl, rfl, rfl, rfl, rfl⟩
  case staysThere =>
    exact step_of_not_enabled_move hm (by rcases hno with h | h | h <;> simp [moveEnabled, h])

/-- Settles O5: each word is decoded by computation. -/
theorem specWordsDecode : Obligations.SpecWordsDecode := by
  unfold Obligations.SpecWordsDecode
  decide

end Sys2Proof.Machine

namespace Sys2Proof.Machine

/-! ### The invariants at reset (10_state.md R46) -/

theorem hostInv_launch (prog : List Command) (mem : Memory) (params : Params) (script : List Choice) :
    HostInv (State.launch prog mem params script) := by
  cases prog with
  | nil => exact ⟨nofun, fun _ => rfl, nofun, fun _ => rfl, nofun⟩
  | cons w prog => exact ⟨fun _ => Nat.succ_pos _, nofun, nofun, fun _ => rfl, nofun⟩

theorem rccInv_launch (prog : List Command) (mem : Memory) (params : Params) (script : List Choice) :
    RccInv (State.launch prog mem params script) where
  ready x := by cases x <;> simp [State.launch, Rcc.reset, PerSrc.get]
  swsReady := rfl
  swsOn := rfl
  enabling x := by cases x <;> simp [State.launch, Rcc.reset, PerSrc.get]
  polled := nofun

theorem inv_launch (prog : List Command) {mem : Memory} {params : Params} (script : List Choice) (hmem : mem.wf)
    (hparams : params.wf) : (State.launch prog mem params script).Inv where
  host := hostInv_launch prog mem params script
  rcc := rccInv_launch prog mem params script
  bus := ⟨.inl rfl, .inl rfl, .inl rfl, fun _ _ _ => rfl⟩
  i2c := ⟨fun h => absurd rfl h, fun h => absurd rfl h, nofun, nofun, nofun, nofun⟩
  ack := nofun
  mem := hmem
  params := hparams

theorem Config.toNat_le_of_mem_codes {n : Nat} {member : Nat → Bool} {c : Byte} (h : c ∈ Config.codes (n + 1) member) :
    c.toNat ≤ n := by
  obtain ⟨k, hk, rfl⟩ := List.mem_map.mp h
  have hlt := List.mem_range.mp (List.mem_filter.mp hk).1
  rw [BitVec.toNat_ofNat]
  exact (Nat.mod_le k _).trans (by omega)

theorem Config.range_wf (a b : Fin 32) : (Config.range a b).wf := by
  have ha := a.isLt
  have hb := b.isLt
  constructor <;> simp only [Config.range] <;> omega

theorem Config.params_wf : Config.params.wf :=
  ⟨Nat.succ_pos _, fun _ => Config.toNat_le_of_mem_codes, fun _ => Config.toNat_le_of_mem_codes,
    fun _ => Config.toNat_le_of_mem_codes, Config.range_wf _ _, Config.range_wf _ _, Config.range_wf _ _,
    Nat.succ_pos _, Nat.succ_pos _⟩

/-- Settles O58: at reset no operation is open, HSI alone is on and ready, and the gate words are the reset ones. -/
theorem invariantAtReset : Obligations.InvariantAtReset :=
  ⟨fun prog _ _ script hmem hparams => inv_launch prog script hmem hparams,
    inv_launch [] [] ⟨List.Pairwise.nil, nofun⟩ Config.params_wf⟩

/-! ### The position of the host (10_state.md R37, R40) -/

/-- With the invariants, an open position is one of the operation the host runs. -/
theorem HostInv.belongs {i : Instr} {s : State} (hinv : HostInv s) (hcur : s.current = some i) {p : Position}
    (hop : s.host.op = some p) : p.belongs i := by
  obtain ⟨j, hj, hbelongs⟩ := hinv.position p hop
  obtain rfl := Option.some.inj (hcur.symm.trans hj)
  exact hbelongs

/-- With the invariants, a first step starts between operations. -/
theorem HostInv.op_eq_none {i : Instr} {s : State} (hinv : HostInv s) (hcur : s.current = some i)
    (hfirst : ∀ p, s.host.op = some p → p.isOf (opOf i) = false) : s.host.op = none := by
  cases hop : s.host.op with
  | none => rfl
  | some p =>
    have hof := hfirst p hop
    rw [Position.isOf_of_belongs (hinv.belongs hcur hop)] at hof
    cases hof

/-- An open byte phase is inside host memory (20_memory.md R71). -/
theorem HostInv.byte_lt_size {i : Instr} {s : State} (hinv : HostInv s) (hcur : s.current = some i) {b n k : Nat}
    (hop : s.host.op = some (.txPhase b n k) ∨ s.host.op = some (.rxPhase b n k)) : b + k < Memory.size := by
  obtain hop | hop := hop <;> have hbelongs := hinv.belongs hcur hop
  · cases i with
    | i2cWrite buf len =>
      obtain ⟨rfl, rfl, hk, hsize⟩ := hbelongs
      omega
    | _ => exact hbelongs.elim
  · cases i with
    | i2cRead buf len =>
      obtain ⟨rfl, rfl, hk, hsize⟩ := hbelongs
      omega
    | _ => exact hbelongs.elim

/-- The host rule keeps the host coherent. -/
theorem HostInv.finish {s u : State} (hinv : HostInv s) (hrun : s.host.status = .running) (hu : SamePlace s u)
    (r : Result) : HostInv (u.finish r) := by
  have hpc := hinv.running hrun
  by_cases hr : r = .ok
  · subst hr
    by_cases hlast : s.host.pc + 1 = s.prog.length
    · have hstatus : (u.finish .ok).host.status = .done := by simp [hu.pc, hu.prog, hlast]
      constructor <;> simp [hstatus, hu.pc, hu.prog, hlast]
    · have hstatus : (u.finish .ok).host.status = .running := by simp [hu.pc, hu.prog, hlast, hu.status, hrun]
      constructor <;> simp [hstatus, hu.pc, hu.prog]
      omega
  · have hstatus := State.finish_bad_status u r hr
    constructor <;> simp [hstatus, hr]

/-- Each end of an operation keeps the host coherent: a result by the host rule, and the others at a position of the
operation. -/
theorem OperationEnd.hostInv {i : Instr} {s t : State} (h : OperationEnd s i t) (hinv : HostInv s)
    (hrun : s.host.status = .running) (hcur : s.current = some i) : HostInv t := by
  have hpc := hinv.running hrun
  cases h with
  | returns r u hr hu => exact hinv.finish hrun hu r
  | refuses reason hr => exact ⟨hinv.running, hinv.done, hinv.halted, hinv.stopped, hinv.position⟩
  | hangs reason u hi hu =>
    refine ⟨fun _ => ?_, fun hd => ?_, fun r hd => ?_, fun hd => ?_, fun p hop => ?_⟩
    · simpa [hu.pc, hu.prog] using hpc
    · simp [hu.status, hrun] at hd
    · simp [hu.status, hrun] at hd
    · simp [hu.status, hrun] at hd
    · obtain ⟨j, hj, hbelongs⟩ := hinv.position p (hu.op ▸ hop)
      exact ⟨j, (State.current_congr hu.prog hu.pc).trans hj, hbelongs⟩
  | goesOn q u hu hq =>
    refine ⟨fun _ => ?_, fun hd => ?_, fun r hd => ?_, fun hd => ?_, fun p hop => ?_⟩
    · simpa [hu.pc, hu.prog] using hpc
    · simp [hu.status, hrun] at hd
    · simp [hu.status, hrun] at hd
    · simp [hu.status, hrun] at hd
    · obtain rfl := Option.some.inj hop
      exact ⟨i, (State.current_congr hu.prog hu.pc).trans hcur, hq fun _ hs => hinv.belongs hcur hs⟩
  | waits hop => exact hinv

/-! ### The clocks (40_rcc_clock.md R125) -/

/-- A step that writes no enable bit, ready flag, phase or `sws` and is no poll keeps the invariants of the clocks. -/
theorem RccInv.of_same_clocks {s t : State} (hinv : RccInv s) (hon : t.rcc.on = s.rcc.on) (hrdy : t.rcc.rdy = s.rcc.rdy)
    (hclk : t.rcc.clk = s.rcc.clk) (hsws : t.rcc.sws = s.rcc.sws) (hs : ∀ x k, s.host.op ≠ some (.clkPoll x k))
    (ht : ∀ x k, t.host.op ≠ some (.clkPoll x k)) : RccInv t where
  ready x hx := by rw [hon, hrdy]; exact hinv.ready x (hclk ▸ hx)
  swsReady := by rw [hrdy, hsws]; exact hinv.swsReady
  swsOn := by rw [hon, hsws]; exact hinv.swsOn
  enabling x hx := by
    obtain ⟨k, hk⟩ := hinv.enabling x (hclk ▸ hx)
    exact absurd hk (hs x k)
  polled x k hop := absurd hop (ht x k)

/-- Only the polled source is Enabling, so the end of its polls leaves none. -/
theorem RccInv.endPoll {s : State} {x : Src} {k : Nat} (hinv : RccInv s) (hop : s.host.op = some (.clkPoll x k))
    {p : ClkPhase} (hp : p ≠ .enabling) (hready : p = .ready → s.rcc.rdy.get x = true) (r : Result) :
    RccInv ((s.setClk x p).finish r) where
  ready y hy := by
    by_cases hyx : y = x
    · subst hyx
      rw [State.finish_rcc, State.setClk_clk, PerSrc.get_set_same] at hy
      exact ⟨(hinv.polled y k hop).1, hready hy⟩
    · rw [State.finish_rcc, State.setClk_clk, PerSrc.get_set_other _ _ _ _ hyx] at hy
      exact hinv.ready y hy
  swsReady := hinv.swsReady
  swsOn := hinv.swsOn
  enabling y hy := by
    by_cases hyx : y = x
    · subst hyx
      rw [State.finish_rcc, State.setClk_clk, PerSrc.get_set_same] at hy
      exact absurd hy hp
    · rw [State.finish_rcc, State.setClk_clk, PerSrc.get_set_other _ _ _ _ hyx] at hy
      obtain ⟨j, hj⟩ := hinv.enabling y hy
      cases hop.symm.trans hj
      exact absurd rfl hyx
  polled y j hy := nomatch hy

theorem not_clkPoll_of_onBus {s : State} {p : Position} (hop : s.host.op = some p) (hp : p.onBus = true) (x : Src)
    (k : Nat) : s.host.op ≠ some (.clkPoll x k) := by
  rintro h
  cases hop.symm.trans h
  cases hp

theorem PositionStep.rccInv {p : Position} {s t : State} (h : PositionStep s p t) (hop : s.host.op = some p)
    (hinv : RccInv s) : RccInv t := by
  cases h with
  | pollReady x k hr => exact hinv.endPoll (p := .ready) hop nofun (fun _ => hr) _
  | pollLast x k hr hk => exact hinv.endPoll (p := .timedOut) hop nofun nofun _
  | pollAgain x k hr hk =>
    refine ⟨hinv.ready, hinv.swsReady, hinv.swsOn, fun y hy => ?_, fun y j hy => ?_⟩
    · obtain ⟨j, hj⟩ := hinv.enabling y hy
      cases hop.symm.trans hj
      exact ⟨k + 1, rfl⟩
    · cases hy
      exact hinv.polled x k hop
  | waits => exact hinv
  | startStalls _ rep a d hp =>
    have hs := not_clkPoll_of_onBus hop (hp ▸ startPosition_onBus rep a d)
    exact hinv.of_same_clocks rfl rfl rfl rfl hs hs
  | startFails _ rep a d hp e =>
    have hs := not_clkPoll_of_onBus hop (hp ▸ startPosition_onBus rep a d)
    exact hinv.of_same_clocks (by simp) (by simp) (by simp) (by simp) hs nofun
  | started _ rep a d hp =>
    have hs := not_clkPoll_of_onBus hop (hp ▸ startPosition_onBus rep a d)
    exact hinv.of_same_clocks rfl rfl rfl rfl hs nofun
  | addressStalls | sendStalls | receiveStalls =>
    exact hinv.of_same_clocks rfl rfl rfl rfl (not_clkPoll_of_onBus hop rfl) (not_clkPoll_of_onBus hop rfl)
  | addressFails | sendFails | receiveFails =>
    exact hinv.of_same_clocks (by simp) (by simp) (by simp) (by simp) (not_clkPoll_of_onBus hop rfl) nofun
  | addressAcked | sentLast | sent | receivedLast | received =>
    exact hinv.of_same_clocks rfl rfl rfl rfl (not_clkPoll_of_onBus hop rfl) nofun

/-- Switching a source off that is not in use: it is not the system clock's. -/
theorem RccInv.clkOff {s : State} {x : Src} (hinv : RccInv s) (hop : s.host.op = none) (hu : inUse s x = false) :
    RccInv (((s.setOn x false).setClk x .disabled).finish .ok) := by
  have hsws : srcOf s.rcc.sws ≠ x := by
    rintro rfl
    rw [(inUse_iff s _).mpr (.inr (.inl rfl))] at hu
    cases hu
  refine ⟨fun y hy => ?_, hinv.swsReady, ?_, fun y hy => ?_, nofun⟩
  · simp only [State.finish_rcc, State.setClk_clk, State.setOn_clk, PerSrc.get_set] at hy
    split at hy
    · cases hy
    next hyx =>
      obtain ⟨hon, hrdy⟩ := hinv.ready y hy
      exact ⟨by simp [PerSrc.get_set_other _ _ _ _ hyx, hon], hrdy⟩
  · simp [PerSrc.get_set_other _ _ _ _ hsws, hinv.swsOn]
  · simp only [State.finish_rcc, State.setClk_clk, State.setOn_clk, PerSrc.get_set] at hy
    split at hy
    · cases hy
    · obtain ⟨k, hk⟩ := hinv.enabling y hy
      rw [hop] at hk
      cases hk

/-- Switching a source on makes it the one that is Enabling and polled. -/
theorem RccInv.clkOn {s : State} {x : Src} (hinv : RccInv s) (hop : s.host.op = none) :
    RccInv (((s.setOn x true).setClk x .enabling).goOn (.clkPoll x 0)) := by
  refine ⟨fun y hy => ?_, hinv.swsReady, ?_, fun y hy => ?_, fun y k hy => ?_⟩
  · simp only [State.goOn_rcc, State.setClk_clk, State.setOn_clk, PerSrc.get_set] at hy
    split at hy
    · cases hy
    next hyx =>
      obtain ⟨hon, hrdy⟩ := hinv.ready y hy
      exact ⟨by simp [PerSrc.get_set_other _ _ _ _ hyx, hon], hrdy⟩
  · simp [PerSrc.get_set, hinv.swsOn]
  · simp only [State.goOn_rcc, State.setClk_clk, State.setOn_clk, PerSrc.get_set] at hy
    split at hy
    next hyx => exact ⟨0, by rw [hyx]; rfl⟩
    next =>
      obtain ⟨k, hk⟩ := hinv.enabling y hy
      rw [hop] at hk
      cases hk
  · cases hy
    simp

theorem FirstStep.rccInv {i : Instr} {s t : State} (h : FirstStep s i t) (hop : s.host.op = none)
    (hinv : RccInv s) : RccInv t := by
  have hs : ∀ x k, s.host.op ≠ some (.clkPoll x k) := by simp [hop]
  cases h with
  | refuses | noTransaction => exact hinv.of_same_clocks rfl rfl rfl rfl hs hs
  | clkOff src state x hx hu => exact hinv.clkOff hop hu
  | clkOn src state x hx => exact hinv.clkOn hop
  | opens _ p hi hguard hp hfits hbus hnew =>
    exact hinv.of_same_clocks rfl rfl rfl rfl hs (not_clkPoll_of_onBus rfl hbus)
  | i2cStop => exact hinv.of_same_clocks (by simp) (by simp) (by simp) (by simp) hs nofun
  | returns | pllCfg | setSysClk | getSysClk | ahbPre | apb1Pre | apb2Pre | periphEn | periphDis | i2cInit | stale
  | empty => exact hinv.of_same_clocks rfl rfl rfl rfl hs nofun

/-! ### The prescalers and the gate bits (41_rcc_bus.md R146) -/

theorem BusInv.of_same_bus {s t : State} (hinv : BusInv s) (hhpre : t.rcc.hpre = s.rcc.hpre)
    (hppre1 : t.rcc.ppre1 = s.rcc.ppre1) (hppre2 : t.rcc.ppre2 = s.rcc.ppre2) (henr : t.rcc.enr = s.rcc.enr)
    (hparams : t.params = s.params) : BusInv t where
  hpre := by rw [hhpre, hparams]; exact hinv.hpre
  ppre1 := by rw [hppre1, hparams]; exact hinv.ppre1
  ppre2 := by rw [hppre2, hparams]; exact hinv.ppre2
  gates := by rw [henr, hparams]; exact hinv.gates

/-- A gate word written at a legal bit keeps every bit that no operation may write. -/
theorem BusInv.setEnr {s : State} {b : Bus} {w : Word} {bit : Nat} (hinv : BusInv s)
    (hl : legalBit s.params b bit = true) (hw : ∀ k, k ≠ bit → w.getLsbD k = (s.rcc.enr.get b).getLsbD k) (r : Result) :
    BusInv ((s.setEnr b w).finish r) where
  hpre := hinv.hpre
  ppre1 := hinv.ppre1
  ppre2 := hinv.ppre2
  gates c k hk := by
    refine (enr_set_getLsbD fun hbc => hw k ?_).trans (hinv.gates c k hk)
    rintro rfl
    rw [← hbc, State.finish_params, State.setEnr_params, hl] at hk
    cases hk

theorem PositionStep.busInv {p : Position} {s t : State} (h : PositionStep s p t) (hinv : BusInv s) : BusInv t := by
  cases h with
  | _ => exact hinv.of_same_bus (by simp) (by simp) (by simp) (by simp) (by simp)

theorem FirstStep.busInv {i : Instr} {s t : State} (h : FirstStep s i t) (hinv : BusInv s) : BusInv t := by
  cases h with
  | ahbPre code hc => exact ⟨.inr ⟨code, hc, rfl⟩, hinv.ppre1, hinv.ppre2, hinv.gates⟩
  | apb1Pre code hc => exact ⟨hinv.hpre, .inr ⟨code, hc, rfl⟩, hinv.ppre2, hinv.gates⟩
  | apb2Pre code hc => exact ⟨hinv.hpre, hinv.ppre1, .inr ⟨code, hc, rfl⟩, hinv.gates⟩
  | periphEn bus b bit hb hl => exact hinv.setEnr hl (fun _ => getLsbD_setBit_of_ne _) _
  | periphDis bus b bit hb hl hm => exact hinv.setEnr hl (fun _ => getLsbD_clearBit_of_ne _) _
  | _ => exact hinv.of_same_bus (by simp) (by simp) (by simp) (by simp) (by simp)

end Sys2Proof.Machine

namespace Sys2Proof.Machine

/-! ### The I2C controller (43_i2c_master.md R187) -/

/-- `rxTail` is clear, the guard holds and the role fits: what the earlier steps of an I2C operation have left at `p`. -/
def Established (p : Position) (s : State) : Prop :=
  s.i2c.rxTail = false ∧ i2cClk s = true ∧ s.i2c.inited = true ∧ p.fits s.i2c.role

/-- The bus's part of the controller is as it was; an open transaction keeps its clock. -/
structure SameBus (s t : State) : Prop where
  role : t.i2c.role = s.i2c.role
  busy : t.i2c.busy = s.i2c.busy
  inited : t.i2c.inited = s.i2c.inited
  pe : t.i2c.pe = s.i2c.pe
  clk : s.i2c.role ≠ .idle → i2cClk s = true → i2cClk t = true

/-- An update that leaves the bus's part alone keeps the invariants where the tail mark and an open position do. -/
theorem I2cInv.of_sameBus {s t : State} (hinv : I2cInv s) (h : SameBus s t)
    (htail : t.i2c.rxTail = true → t.i2c.role = .master .r ∧ t.params.rxTailRace = true)
    (hinside : ∀ p, t.host.op = some p → p.onBus = true → Established p t) : I2cInv t where
  busy hr := h.busy.trans (hinv.busy (h.role ▸ hr))
  ready hr := by
    rw [h.role] at hr
    obtain ⟨hinited, hpe, hclk⟩ := hinv.ready hr
    exact ⟨h.inited.trans hinited, h.pe.trans hpe, h.clk hr hclk⟩
  tailRole ht := (htail ht).1
  tailRace ht := (htail ht).2
  enabled hi := h.pe.trans (hinv.enabled (h.inited ▸ hi))
  inside := hinside

/-- Where the tail mark is only kept or cleared, the invariants about it stay. -/
theorem I2cInv.tail {s t : State} (hinv : I2cInv s) (hrole : t.i2c.role = s.i2c.role)
    (hparams : t.params = s.params) (h : t.i2c.rxTail = true → s.i2c.rxTail = true) :
    t.i2c.rxTail = true → t.i2c.role = .master .r ∧ t.params.rxTailRace = true := fun ht => by
  rw [hrole, hparams]
  exact ⟨hinv.tailRole (h ht), hinv.tailRace (h ht)⟩

/-- A failure keeps the transaction, or leaves the role Idle; the operation is over. -/
theorem I2cInv.fails {s u : State} {f : Failure} (hinv : I2cInv s) (h : SameBus s u) (htail : u.i2c.rxTail = false) :
    I2cInv (u.fails f) := by
  have hclear : ∀ {P : Prop}, u.i2c.rxTail = true → P := fun ht => nomatch htail.symm.trans ht
  have hu : I2cInv (u.finish .failed) :=
    hinv.of_sameBus ⟨h.role, h.busy, h.inited, h.pe, h.clk⟩ (by simp [htail]) nofun
  cases f with
  | nack => exact ⟨hu.busy, hu.ready, hu.tailRole, hu.tailRace, hu.enabled, nofun⟩
  | arbLost =>
    exact ⟨fun hr => absurd rfl hr, fun hr => absurd rfl hr, hclear, hclear, hu.enabled, nofun⟩
  | busError =>
    cases hdrop : u.draw.dropRole with
    | true =>
      have hrole : (u.fails .busError).i2c.role = .idle := by simp [State.fails, State.applyFail, hdrop]
      exact ⟨fun hr => absurd hrole hr, fun hr => absurd hrole hr, hclear, hclear, hu.enabled, nofun⟩
    | false =>
      have hrole : (u.fails .busError).i2c.role = u.i2c.role := by simp [State.fails, State.applyFail, hdrop]
      have hbusy : (u.fails .busError).i2c.busy = u.i2c.busy := by simp [State.fails, State.applyFail, hdrop]
      exact ⟨fun hr => hbusy.trans (hu.busy (hrole ▸ hr)), fun hr => hu.ready (hrole ▸ hr), hclear, hclear,
        hu.enabled, nofun⟩

theorem wireAck_true {s : State} (h : wireAck true s = true) : s.params.rxTailRace = true := by
  cases hr : s.params.rxTailRace with
  | true => rfl
  | false => simp [wireAck, hr] at h

theorem PositionStep.i2cInv {p : Position} {s t : State} (h : PositionStep s p t) (hop : s.host.op = some p)
    (hinv : I2cInv s) : I2cInv t := by
  have hinside := hinv.inside p hop
  cases h with
  | pollReady | pollLast | pollAgain =>
    exact hinv.of_sameBus ⟨rfl, rfl, rfl, rfl, fun _ => id⟩ (hinv.tail rfl rfl id) (by rintro q ⟨⟩ ⟨⟩)
  | waits => exact hinv
  | startStalls | addressStalls | sendStalls | receiveStalls =>
    exact hinv.of_sameBus ⟨rfl, rfl, rfl, rfl, fun _ => id⟩ (hinv.tail rfl rfl id) hinv.inside
  | startFails _ rep a d hp e =>
    exact hinv.fails ⟨rfl, rfl, rfl, rfl, fun _ => id⟩ (hinside (hp ▸ startPosition_onBus rep a d)).1
  | addressFails | sendFails | receiveFails =>
    exact hinv.fails ⟨rfl, rfl, rfl, rfl, fun _ => id⟩ (hinside rfl).1
  | started _ rep a d hp =>
    obtain ⟨htail, hclk, hinited, -⟩ := hinside (hp ▸ startPosition_onBus rep a d)
    have hclear : ∀ {P : Prop}, s.i2c.rxTail = true → P := fun ht => nomatch htail.symm.trans ht
    exact ⟨fun _ => rfl, fun _ => ⟨hinited, hinv.enabled hinited, hclk⟩, hclear, hclear, hinv.enabled,
      by rintro q ⟨⟩ -; exact ⟨htail, hclk, hinited, rfl⟩⟩
  | addressAcked | sentLast =>
    exact hinv.of_sameBus ⟨rfl, rfl, rfl, rfl, fun _ => id⟩ (hinv.tail rfl rfl id) nofun
  | sent | received =>
    exact hinv.of_sameBus ⟨rfl, rfl, rfl, rfl, fun _ => id⟩ (hinv.tail rfl rfl id) (by rintro q ⟨⟩ -; exact hinside rfl)
  | receivedLast buf len k v ha hk =>
    obtain ⟨-, -, -, hrole⟩ := hinside rfl
    exact hinv.of_sameBus ⟨rfl, rfl, rfl, rfl, fun _ => id⟩ (fun ht => ⟨hrole, wireAck_true ht⟩) nofun

/-- Clearing a gate bit that the guard of R144 lets through leaves the clock of an open transaction on. -/
theorem i2cClk_setEnr_clearBit {b : Bus} {bit : Nat} {s : State} (hm : stopsMaster b bit s = false)
    (hrole : s.i2c.role ≠ .idle) (hclk : i2cClk s = true) :
    i2cClk (s.setEnr b (clearBit (s.rcc.enr.get b) bit)) = true := by
  have hother : b = .apb1 → i2cGateBit s.params ≠ bit := by
    rintro rfl rfl
    exact nomatch hm.symm.trans ((stopsMaster_iff .apb1 _ s).mpr ⟨rfl, rfl, hrole⟩)
  exact (enr_set_getLsbD (c := .apb1) fun hb => getLsbD_clearBit_of_ne _ (hother hb)).trans hclk

theorem i2cClk_setEnr_setBit {b : Bus} {bit : Nat} {s : State} (hbit : bit ≤ 31) (hclk : i2cClk s = true) :
    i2cClk (s.setEnr b (setBit (s.rcc.enr.get b) bit)) = true := by
  refine (enr_set_getLsbD (c := .apb1) fun hb => ?_).trans hclk
  subst hb
  rw [getLsbD_setBit _ hbit]
  split
  · exact hclk.symm
  · rfl

theorem FirstStep.i2cInv {i : Instr} {s t : State} (h : FirstStep s i t) (hop : s.host.op = none)
    (hparams : s.params.wf) (hinv : I2cInv s) : I2cInv t := by
  have hclosed : ∀ p, s.host.op = some p → p.onBus = true → Established p s := by simp [hop]
  cases h with
  | returns | clkOff | pllCfg | setSysClk | getSysClk | ahbPre | apb1Pre | apb2Pre =>
    exact hinv.of_sameBus ⟨rfl, rfl, rfl, rfl, fun _ => id⟩ (hinv.tail rfl rfl id) nofun
  | refuses => exact hinv.of_sameBus ⟨rfl, rfl, rfl, rfl, fun _ => id⟩ (hinv.tail rfl rfl id) hclosed
  | clkOn => exact hinv.of_sameBus ⟨rfl, rfl, rfl, rfl, fun _ => id⟩ (hinv.tail rfl rfl id) (by rintro q ⟨⟩ ⟨⟩)
  | periphEn bus b bit hb hl =>
    exact hinv.of_sameBus ⟨rfl, rfl, rfl, rfl, fun _ => i2cClk_setEnr_setBit (legalBit_le hparams hl)⟩
      (hinv.tail rfl rfl id) nofun
  | periphDis bus b bit hb hl hm =>
    exact hinv.of_sameBus ⟨rfl, rfl, rfl, rfl, i2cClk_setEnr_clearBit hm⟩ (hinv.tail rfl rfl id) nofun
  | i2cInit freq own am hr =>
    exact ⟨hinv.busy, fun hne => absurd hr hne, hinv.tailRole, hinv.tailRace, fun _ => rfl, nofun⟩
  | stale | empty =>
    exact hinv.of_sameBus ⟨rfl, rfl, rfl, rfl, fun _ => id⟩ nofun nofun
  | noTransaction =>
    exact hinv.of_sameBus ⟨rfl, rfl, rfl, rfl, fun _ => id⟩ nofun (by simp [hop])
  | opens _ p hi hguard hp hfits hbus hnew =>
    obtain ⟨hclk, hinited⟩ := (i2cGuard_none s).mp hguard
    exact hinv.of_sameBus ⟨rfl, rfl, rfl, rfl, fun _ => id⟩ nofun
      (by rintro q ⟨⟩ -; exact ⟨rfl, hclk, hinited, hfits⟩)
  | i2cStop =>
    refine ⟨fun hr => absurd rfl hr, fun hr => absurd rfl hr, nofun, nofun, fun hi => ?_, nofun⟩
    simp only [State.finish_i2c, State.releaseBus, State.emit_i2c, State.extraByte_i2c] at hi ⊢
    exact hinv.enabled hi

/-! ### The acknowledge enable (10_state.md R32) -/

/-- Only a byte of ReadData sets it, and the host then stays in the ReadData or halts. -/
theorem exec_ackInv {i : Instr} {s t : State} (h : exec i s = .next t) (hinv : s.Inv)
    (hrun : s.host.status = .running) (hcur : s.current = some i) : AckInv t := by
  by_cases hread : opOf i = .i2cRead
  · cases exec_cases h with
    | atPosition p hop hp hstep =>
      rw [hread] at hp
      cases hstep with
      | receiveStalls buf len k => exact fun _ _ => ⟨buf, len, k, hop⟩
      | receiveFails buf len k e =>
        intro _ hstatus
        simp [State.fails, State.finish_bad_status] at hstatus
      | receivedLast buf len k v ha hk =>
        intro hack
        simp [State.received, State.setRxTail, State.emit, State.setAck, hk] at hack
      | received buf len k v ha hk => exact fun _ _ => ⟨buf, len, k + 1, rfl⟩
      | startStalls _ rep _ _ hpos | startFails _ rep _ _ hpos | started _ rep _ _ hpos =>
        subst hpos
        cases rep <;> cases hp
      | _ => cases hp
    | first hop hstep =>
      have hack : s.i2c.ack = false := by
        cases hack : s.i2c.ack with
        | false => rfl
        | true =>
          obtain ⟨buf, len, k, hk⟩ := hinv.ack hack hrun
          rw [hinv.host.op_eq_none hcur hop] at hk
          cases hk
      cases hstep with
      | returns | refuses | stale | empty | noTransaction | opens => exact fun ht => nomatch hack.symm.trans ht
      | _ => cases hread
  · intro hack
    rw [exec_ack_of_inv h hinv hrun hcur hread, ack_eq_false_of_not_read hinv hrun hcur hread] at hack
    cases hack

/-! ### Every host step keeps the invariants -/

theorem exec_mem_wf {i : Instr} {s t : State} (h : exec i s = .next t) (hmem : s.host.mem.wf) : t.host.mem.wf := by
  obtain hsame | ⟨buf, len, k, v, -, -, ha, hput⟩ := exec_mem h
  · rwa [hsame]
  · rw [hput]
    exact Memory.put_wf _ _ _ hmem ha

theorem exec_inv {i : Instr} {s t : State} (h : exec i s = .next t) (hinv : s.Inv) (hrun : s.host.status = .running)
    (hcur : s.current = some i) : t.Inv := by
  have hhost := (exec_operationEnd h).hostInv hinv.host hrun hcur
  have hack := exec_ackInv h hinv hrun hcur
  have hmem := exec_mem_wf h hinv.mem
  have hparams : t.params.wf := (exec_frame h).params ▸ hinv.params
  cases exec_cases h with
  | atPosition p hop hp hstep =>
    exact ⟨hhost, hstep.rccInv hop hinv.rcc, hstep.busInv hinv.bus, hstep.i2cInv hop hinv.i2c, hack, hmem, hparams⟩
  | first hfirst hstep =>
    have hop := hinv.host.op_eq_none hcur hfirst
    exact ⟨hhost, hstep.rccInv hop hinv.rcc, hstep.busInv hinv.bus, hstep.i2cInv hop hinv.params hinv.i2c, hack, hmem,
      hparams⟩

/-! ### Every autonomous move keeps them -/

/-- The invariants read neither the wire, nor the refusal mark, nor the environment's choices. -/
theorem State.Inv.of_same_parts {s t : State} (hinv : s.Inv) (hrcc : t.rcc = s.rcc) (hi2c : t.i2c = s.i2c)
    (hhost : t.host = s.host) (hprog : t.prog = s.prog) (hparams : t.params = s.params) : t.Inv := by
  obtain ⟨rcc, i2c, host, wire, refused, prog, params, env⟩ := t
  subst hrcc hi2c hhost hprog hparams
  obtain ⟨hhost, hrcc, hbus, hi2c, hack, hmem, hparams⟩ := hinv
  exact ⟨⟨hhost.running, hhost.done, hhost.halted, hhost.stopped, hhost.position⟩,
    ⟨hrcc.ready, hrcc.swsReady, hrcc.swsOn, hrcc.enabling, hrcc.polled⟩,
    ⟨hbus.hpre, hbus.ppre1, hbus.ppre2, hbus.gates⟩,
    ⟨hi2c.busy, hi2c.ready, hi2c.tailRole, hi2c.tailRace, hi2c.enabled, hi2c.inside⟩, hack, hmem, hparams⟩

theorem HostInv.of_same_host {s t : State} (hinv : HostInv s) (hhost : t.host = s.host) (hprog : t.prog = s.prog) :
    HostInv t where
  running := by rw [hhost, hprog]; exact hinv.running
  done := by rw [hhost, hprog]; exact hinv.done
  halted := by rw [hhost]; exact hinv.halted
  stopped := by rw [hhost]; exact hinv.stopped
  position := by rw [hhost, State.current_congr hprog (by rw [hhost])]; exact hinv.position

/-- The oscillators clear only the flag of a source that is off, and the switch goes only to a source that is on and
ready. -/
theorem moveEffect_rccInv {m : Move} {s : State} (hm : moveEnabled m s = true) (hinv : RccInv s) :
    RccInv (moveEffect m s) := by
  cases m with
  | readyRises x =>
    refine ⟨fun y hy => ?_, ?_, hinv.swsOn, hinv.enabling, hinv.polled⟩
    · obtain ⟨hon, hrdy⟩ := hinv.ready y hy
      exact ⟨hon, by simp [moveEffect, PerSrc.get_set, hrdy]⟩
    · simp [moveEffect, PerSrc.get_set, hinv.swsReady]
  | readyFalls x =>
    simp only [moveEnabled, Bool.and_eq_true, Bool.not_eq_true'] at hm
    have hne : ∀ y, s.rcc.on.get y = true → y ≠ x := by
      rintro y hy rfl
      exact nomatch hm.1.symm.trans hy
    refine ⟨fun y hy => ?_, ?_, hinv.swsOn, hinv.enabling, hinv.polled⟩
    · obtain ⟨hon, hrdy⟩ := hinv.ready y hy
      exact ⟨hon, (PerSrc.get_set_other _ _ _ _ (hne y hon)).trans hrdy⟩
    · exact (PerSrc.get_set_other _ _ _ _ (hne _ hinv.swsOn)).trans hinv.swsReady
  | switchSysclk =>
    simp only [moveEnabled, Bool.and_eq_true] at hm
    exact ⟨hinv.ready, hm.2, hm.1.2, hinv.enabling, hinv.polled⟩
  | busChange b => exact ⟨hinv.ready, hinv.swsReady, hinv.swsOn, hinv.enabling, hinv.polled⟩

theorem moveEffect_i2cInv {m : Move} {s : State} (hm : moveEnabled m s = true) (hinv : I2cInv s) :
    I2cInv (moveEffect m s) := by
  cases m with
  | busChange b =>
    have hrole : s.i2c.role = .idle := by simpa [moveEnabled] using hm
    exact ⟨fun hr => absurd hrole hr, hinv.ready, hinv.tailRole, hinv.tailRace, hinv.enabled, hinv.inside⟩
  | readyRises | readyFalls | switchSysclk =>
    exact ⟨hinv.busy, hinv.ready, hinv.tailRole, hinv.tailRace, hinv.enabled, hinv.inside⟩

theorem envMove_inv (m : Move) {s : State} (hinv : s.Inv) : (envMove m s).Inv := by
  cases hm : moveEnabled m s with
  | false => rwa [envMove_of_not_enabled hm]
  | true =>
    have hhost : HostInv (envMove m s) := hinv.host.of_same_host (envMove_host m s) (envMove_prog m s)
    rw [envMove_of_enabled hm] at hhost ⊢
    have hrcc := moveEffect_rccInv hm hinv.rcc
    have hi2c := moveEffect_i2cInv hm hinv.i2c
    cases m <;>
      exact ⟨hhost, hrcc, hinv.bus.of_same_bus rfl rfl rfl rfl rfl, hi2c, hinv.ack, hinv.mem, hinv.params⟩

/-! ### Every step -/

/-- From a state with the invariants every step answers a next state: an open byte phase is inside host memory. -/
theorem step_answers {s : State} (hinv : s.Inv) : ∃ t, step s = .next t := by
  obtain ⟨m, -, hs⟩ | ⟨-, -, hs⟩ | ⟨-, -, w, hf, ⟨e, -, hs⟩ | ⟨i, hd, hs⟩⟩ := step_cases s
  · exact ⟨_, hs⟩
  · exact ⟨_, hs⟩
  · exact ⟨_, hs⟩
  · have hcur : s.current = some i := (s.current_eq_some_iff i).mpr ⟨w, hf, hd⟩
    obtain ⟨t, ht⟩ := exec_answers i s fun b n k => hinv.host.byte_lt_size hcur
    exact ⟨t.advance, by rw [hs, ht]; rfl⟩

theorem step_inv {s t : State} (h : step s = .next t) (hinv : s.Inv) : t.Inv := by
  obtain ⟨u, rfl, ⟨m, -, rfl⟩ | ⟨-, rfl | rfl⟩ | ⟨-, hr, i, hcur, hu⟩⟩ := step_next_cases h
  · exact (envMove_inv m hinv).of_same_parts rfl rfl rfl rfl rfl
  · exact hinv.of_same_parts rfl rfl rfl rfl rfl
  · exact hinv.of_same_parts rfl rfl rfl rfl rfl
  · obtain ⟨hrun, -⟩ := s.hostRuns_iff.mp hr
    exact (exec_inv hu hinv hrun hcur).of_same_parts rfl rfl rfl rfl rfl

/-- Settles O59: a host step, by the cases of `PositionStep` and `FirstStep`, and each autonomous move keep every part
of the invariants. -/
theorem stepKeepsInvariant : Obligations.StepKeepsInvariant := by
  intro s hinv
  obtain ⟨t, ht⟩ := step_answers hinv
  exact ⟨t, ht, step_inv ht hinv⟩

end Sys2Proof.Machine

namespace Sys2Proof.Machine

/-! ### The shape of the wire trace (43_i2c_master.md R188) -/

theorem wireShape_append {wire : List WireEvent} {w w' : WireShape} {e : WireEvent} (h : wireShape wire = some w)
    (hnext : w.next e = some w') : wireShape (wire ++ [e]) = some w' := by
  unfold wireShape at h ⊢
  rw [List.foldl_append, h]
  exact hnext

theorem WireShape.next_start {w : WireShape} (h : w ≠ .opened) : w.next .start = some .opened := by
  cases w with
  | opened => exact absurd rfl h
  | _ => rfl

theorem WireShape.next_repStart {w : WireShape} (hopened : w ≠ .opened) (hclosed : w ≠ .closed) :
    w.next .repStart = some .opened := by
  cases w with
  | opened => exact absurd rfl hopened
  | closed => exact absurd rfl hclosed
  | _ => rfl

theorem WireShape.next_stop {w : WireShape} (hopened : w ≠ .opened) (hclosed : w ≠ .closed) :
    w.next .stop = some .closed := by
  cases w with
  | opened => exact absurd rfl hopened
  | closed => exact absurd rfl hclosed
  | _ => rfl

theorem WireShape.next_fail (w : WireShape) (e : BusErr) : w.next (.fail e) = some .loose := by
  cases w <;> rfl

theorem WireShape.next_addr_failed {b : Byte} {r : TxResp} {f : Failure} (h : failureOfResp r = some f) :
    WireShape.opened.next (.addr b r) = some .loose := by
  cases r with
  | ack => cases h
  | _ => rfl

/-- The controller's role fits the place of the wire: Idle after a Stop, and never against the direction that the last
acknowledged address gave. -/
structure WireFits (w : WireShape) (r : Role) : Prop where
  closed : w = .closed → r = .idle
  sending : w = .sending → r ≠ .master .r
  receiving : w = .receiving → r ≠ .master .w

theorem WireFits.opened (r : Role) : WireFits .opened r := ⟨nofun, nofun, nofun⟩

theorem WireFits.loose (r : Role) : WireFits .loose r := ⟨nofun, nofun, nofun⟩

/-- In a write transaction the wire is at its Tx events, or unconstrained. -/
theorem WireFits.next_tx {w : WireShape} {r : Role} (h : WireFits w r) (hr : r = .master .w)
    (hopened : w ≠ .opened) (b : Byte) (answer : TxResp) : w.next (.tx b answer) = some w := by
  subst hr
  cases w with
  | closed => cases h.closed rfl
  | opened => exact absurd rfl hopened
  | receiving => exact absurd rfl (h.receiving rfl)
  | sending | loose => rfl

/-- In a read transaction the wire is at its Rx events, or unconstrained. -/
theorem WireFits.next_rx {w : WireShape} {r : Role} (h : WireFits w r) (hr : r = .master .r)
    (hopened : w ≠ .opened) (b : Byte) (a : Bool) : w.next (.rx b a) = some w := by
  subst hr
  cases w with
  | closed => cases h.closed rfl
  | opened => exact absurd rfl hopened
  | sending => exact absurd rfl (h.sending rfl)
  | receiving | loose => rfl

/-- Losing the bus fits every place. -/
theorem WireFits.idle_or_same {w : WireShape} {r r' : Role} (h : WireFits w r) (hr : r' = .idle ∨ r' = r) :
    WireFits w r' := by
  obtain rfl | rfl := hr
  · exact ⟨fun _ => rfl, fun _ => nofun, fun _ => nofun⟩
  · exact h

theorem State.fails_role (s : State) (f : Failure) :
    (s.fails f).i2c.role = .idle ∨ (s.fails f).i2c.role = s.i2c.role := by
  cases f with
  | nack => exact .inr rfl
  | arbLost => exact .inl rfl
  | busError => cases hdrop : s.draw.dropRole <;> simp [State.fails, State.applyFail, hdrop]

theorem addrByte_getLsbD_zero (a : BitVec 7) (d : Dir) : (addrByte a d).getLsbD 0 = decide (d = .r) := by
  cases d <;> simp [addrByte, Dir.code]

/-- After an acknowledged address byte the wire is at the events of the direction addressed. -/
theorem next_addr_ack (a : BitVec 7) (d : Dir) :
    WireShape.opened.next (.addr (addrByte a d) .ack) = some (if d = .r then .receiving else .sending) := by
  simp only [WireShape.next, addrByte_getLsbD_zero, decide_eq_true_eq]

/-- The address byte is next. -/
def State.atAddress (s : State) : Prop := ∃ rep a d, s.host.op = some (.addrPhase rep a d)

theorem State.not_atAddress_of_closed {s : State} (hop : s.host.op = none) : ¬ s.atAddress := by
  rintro ⟨rep, a, d, h⟩
  cases hop.symm.trans h

theorem State.not_atAddress {s : State} {p : Position} (hop : s.host.op = some p)
    (hp : ∀ rep a d, p ≠ .addrPhase rep a d) : ¬ s.atAddress := by
  rintro ⟨rep, a, d, h⟩
  exact hp rep a d (Option.some.inj (hop.symm.trans h))

theorem startPosition_ne_addrPhase (rep : Bool) (a : BitVec 7) (d : Dir) (rep' : Bool) (a' : BitVec 7) (d' : Dir) :
    startPosition rep a d ≠ .addrPhase rep' a' d' := by
  cases rep <;> nofun

theorem wireInv_iff (s : State) :
    WireInv s ↔ ∃ w, wireShape s.wire = some w ∧ WireFits w s.i2c.role ∧ (w = .opened ↔ s.atAddress) := by
  constructor
  · rintro ⟨w, hw, hclosed, hopened, hsending, hreceiving⟩
    exact ⟨w, hw, ⟨hclosed, hsending, hreceiving⟩, hopened⟩
  · rintro ⟨w, hw, ⟨hclosed, hsending, hreceiving⟩, hopened⟩
    exact ⟨w, hw, hclosed, hopened, hsending, hreceiving⟩

theorem wireInv_launch (prog : List Command) (mem : Memory) (params : Params) (script : List Choice) :
    WireInv (State.launch prog mem params script) :=
  (wireInv_iff _).mpr ⟨.closed, rfl, ⟨fun _ => rfl, nofun, nofun⟩, nofun, fun h =>
    absurd h (State.not_atAddress_of_closed rfl)⟩

/-- A step with no event that keeps the role keeps the shape, where it neither reaches nor leaves an address byte. -/
theorem WireInv.of_same_wire {s t : State} (hinv : WireInv s) (hwire : t.wire = s.wire) (hrole : t.i2c.role = s.i2c.role)
    (haddr : t.atAddress ↔ s.atAddress) : WireInv t := by
  obtain ⟨w, hw, hfits, hopened⟩ := (wireInv_iff s).mp hinv
  exact (wireInv_iff t).mpr ⟨w, hwire ▸ hw, hrole ▸ hfits, hopened.trans haddr.symm⟩

/-- An operation that is over, or goes on at no address byte, with the wire at a place that is not after a start. -/
theorem wireInv_of_fits {t : State} {w : WireShape} (hw : wireShape t.wire = some w) (hfits : WireFits w t.i2c.role)
    (hopened : w ≠ .opened) (haddr : ¬ t.atAddress) : WireInv t :=
  (wireInv_iff t).mpr ⟨w, hw, hfits, fun h => absurd h hopened, fun h => absurd h haddr⟩

/-- A failure leaves the wire where its event put it: the controller keeps its role or loses the bus. -/
theorem wireInv_fails {u : State} {f : Failure} {w : WireShape} (hw : wireShape u.wire = some w)
    (hfits : WireFits w u.i2c.role) (hopened : w ≠ .opened) : WireInv (u.fails f) :=
  wireInv_of_fits (by rwa [State.fails_wire]) (hfits.idle_or_same (u.fails_role f)) hopened
    (State.not_atAddress_of_closed rfl)

theorem PositionStep.wireInv {p : Position} {s t : State} (h : PositionStep s p t) (hop : s.host.op = some p)
    (hi2c : I2cInv s) (hinv : WireInv s) : WireInv t := by
  obtain ⟨w, hw, hfits, hopened⟩ := (wireInv_iff s).mp hinv
  have hnot : (∀ rep a d, p ≠ .addrPhase rep a d) → w ≠ .opened := fun hp hwo =>
    State.not_atAddress hop hp (hopened.mp hwo)
  have hinside := hi2c.inside p hop
  cases h with
  | pollReady | pollLast =>
    exact wireInv_of_fits hw hfits (hnot nofun) (State.not_atAddress_of_closed rfl)
  | pollAgain => exact wireInv_of_fits hw hfits (hnot nofun) (State.not_atAddress rfl nofun)
  | waits => exact hinv
  | startStalls | addressStalls | sendStalls | receiveStalls => exact hinv.of_same_wire rfl rfl Iff.rfl
  | startFails | receiveFails =>
    exact wireInv_fails (wireShape_append hw (w.next_fail _)) (.loose _) nofun
  | started _ rep a d hp =>
    subst hp
    have hwo := hnot (startPosition_ne_addrPhase rep a d)
    have hnext : w.next (if rep then .repStart else .start) = some .opened := by
      cases rep with
      | false => exact WireShape.next_start hwo
      | true =>
        obtain ⟨-, -, -, hrole⟩ := hinside rfl
        exact WireShape.next_repStart hwo fun hc => hrole (hfits.closed hc)
    exact (wireInv_iff _).mpr ⟨.opened, wireShape_append hw hnext, .opened _, fun _ => ⟨rep, a, d, rfl⟩, fun _ => rfl⟩
  | addressAcked rep a d =>
    obtain rfl := hopened.mpr ⟨rep, a, d, hop⟩
    obtain ⟨-, -, -, hrole⟩ := hinside rfl
    refine wireInv_of_fits (wireShape_append hw (next_addr_ack a d)) ?_ (by cases d <;> nofun)
      (State.not_atAddress_of_closed rfl)
    rw [State.finish_i2c, State.emit_i2c, hrole]
    cases d <;> exact ⟨nofun, nofun, nofun⟩
  | addressFails rep a d r f hf =>
    obtain rfl := hopened.mpr ⟨rep, a, d, hop⟩
    exact wireInv_fails (wireShape_append hw (WireShape.next_addr_failed hf)) (.loose _) nofun
  | sendFails buf len k r f =>
    obtain ⟨-, -, -, hrole⟩ := hinside rfl
    exact wireInv_fails (wireShape_append hw (hfits.next_tx hrole (hnot nofun) _ _)) hfits
      (hnot nofun)
  | sentLast =>
    obtain ⟨-, -, -, hrole⟩ := hinside rfl
    exact wireInv_of_fits (wireShape_append hw (hfits.next_tx hrole (hnot nofun) _ _))
      hfits (hnot nofun) (State.not_atAddress_of_closed rfl)
  | sent =>
    obtain ⟨-, -, -, hrole⟩ := hinside rfl
    exact wireInv_of_fits (wireShape_append hw (hfits.next_tx hrole (hnot nofun) _ _))
      hfits (hnot nofun) (State.not_atAddress rfl nofun)
  | receivedLast =>
    obtain ⟨-, -, -, hrole⟩ := hinside rfl
    exact wireInv_of_fits (wireShape_append hw (hfits.next_rx hrole (hnot nofun) _ _))
      hfits (hnot nofun) (State.not_atAddress_of_closed rfl)
  | received =>
    obtain ⟨-, -, -, hrole⟩ := hinside rfl
    exact wireInv_of_fits (wireShape_append hw (hfits.next_rx hrole (hnot nofun) _ _))
      hfits (hnot nofun) (State.not_atAddress rfl nofun)

/-- A Stop closes the wire, after the extra byte where the tail mark, and so a read transaction, is set. -/
theorem wireShape_stop {s : State} {w : WireShape} (hw : wireShape s.wire = some w) (hfits : WireFits w s.i2c.role)
    (hopened : w ≠ .opened) (hrole : s.i2c.role ≠ .idle) (htail : s.i2c.rxTail = true → s.i2c.role = .master .r) :
    wireShape (s.extraByte.emit .stop).wire = some .closed := by
  have hstop : w.next .stop = some .closed := WireShape.next_stop hopened fun hc => hrole (hfits.closed hc)
  refine wireShape_append ?_ hstop
  unfold State.extraByte
  split
  next ht => exact wireShape_append hw (hfits.next_rx (htail ht) hopened _ _)
  next => exact hw

theorem FirstStep.wireInv {i : Instr} {s t : State} (h : FirstStep s i t) (hop : s.host.op = none)
    (hi2c : I2cInv s) (hinv : WireInv s) : WireInv t := by
  obtain ⟨w, hw, hfits, hopened⟩ := (wireInv_iff s).mp hinv
  have hwo : w ≠ .opened := fun hwo => State.not_atAddress_of_closed hop (hopened.mp hwo)
  cases h with
  | refuses | noTransaction => exact hinv.of_same_wire rfl rfl Iff.rfl
  | clkOn => exact wireInv_of_fits hw hfits hwo (State.not_atAddress rfl nofun)
  | opens _ p hi hguard hp hf hbus hnew => exact wireInv_of_fits hw hfits hwo (State.not_atAddress rfl hnew)
  | i2cStop hrole =>
    exact wireInv_of_fits (wireShape_stop hw hfits hwo hrole hi2c.tailRole) ⟨fun _ => rfl, nofun, nofun⟩ nofun
      (State.not_atAddress_of_closed rfl)
  | returns | clkOff | pllCfg | setSysClk | getSysClk | ahbPre | apb1Pre | apb2Pre | periphEn | periphDis | i2cInit
  | stale | empty => exact wireInv_of_fits hw hfits hwo (State.not_atAddress_of_closed rfl)

theorem exec_wireInv {i : Instr} {s t : State} (h : exec i s = .next t) (hinv : s.Inv) (hcur : s.current = some i)
    (hwire : WireInv s) : WireInv t := by
  cases exec_cases h with
  | atPosition p hop hp hstep => exact hstep.wireInv hop hinv.i2c hwire
  | first hfirst hstep => exact hstep.wireInv (hinv.host.op_eq_none hcur hfirst) hinv.i2c hwire

theorem envMove_role (m : Move) (s : State) : (envMove m s).i2c.role = s.i2c.role := by
  unfold envMove
  split
  · cases m <;> rfl
  · rfl

theorem step_wireInv {s t : State} (h : step s = .next t) (hinv : s.Inv) (hwire : WireInv s) : WireInv t := by
  obtain ⟨u, rfl, ⟨m, -, rfl⟩ | ⟨-, rfl | rfl⟩ | ⟨-, -, i, hcur, hu⟩⟩ := step_next_cases h
  · refine hwire.of_same_wire (envMove_wire m s) (envMove_role m s) ?_
    simp only [State.atAddress, State.advance_host, envMove_host]
  · exact hwire.of_same_wire rfl rfl Iff.rfl
  · exact hwire.of_same_wire rfl rfl Iff.rfl
  · exact (exec_wireInv hu hinv hcur hwire).of_same_wire rfl rfl Iff.rfl

/-- Settles O60: each event of a host step is one its place on the wire admits, since role and position fit the place. -/
theorem stepKeepsWireShape : Obligations.StepKeepsWireShape :=
  ⟨wireInv_launch, fun _ _ hinv hwire h => step_wireInv h hinv hwire⟩

end Sys2Proof.Machine

namespace Sys2Proof.Machine

/-! ### Host memory (20_memory.md section 1) -/

/-- Settles O24: inside the address space a write puts the byte, outside neither access answers. -/
theorem memoryReadAfterWrite : Obligations.MemoryReadAfterWrite := by
  refine fun s a v hmem => ⟨fun ha => ?inside, fun ha => ?outside⟩
  case inside =>
    have hbyte := Memory.byte_put s.host.mem a (v := v) (h := hmem.1)
    refine ⟨_, State.memWrite_some s a v ha, Memory.put_wf _ _ _ hmem ha, ?_, hbyte⟩
    rw [State.memRead_some _ _ ha]
    exact congrArg some ((hbyte a).trans (if_pos rfl))
  case outside => exact ⟨if_neg (Nat.not_lt.mpr ha), if_neg (Nat.not_lt.mpr ha)⟩

/-! ### The steps of an I2C operation in the terms of the rules (10_state.md R40, 43_i2c_master.md R179) -/

/-- An operation that writes the I2C part, adds events to the wire and goes on. -/
theorem continues_goOn_i2c (p : Position) {i2c : I2c} {events : List WireEvent} {s u : State}
    (hu : u = { s with i2c := i2c, wire := s.wire ++ events }) : Continues p s.rcc i2c events s (u.goOn p) := by
  subst hu
  exact
    { op := rfl
      pc := rfl
      status := rfl
      res := rfl
      rcc := rfl
      i2c := rfl
      wire := rfl
      rest := ⟨rfl, fun _ => rfl, rfl, rfl, rfl, rfl, rfl⟩ }

theorem State.applyFail_eq (f : Failure) (s : State) : s.applyFail f = { s with i2c := (s.applyFail f).i2c } := by
  cases f <;> rfl

theorem failureUpdate_applyFail (f : Failure) (s : State) :
    FailureUpdate f s.draw.dropRole s.draw.busAfter s.i2c (s.applyFail f).i2c := by
  cases f with
  | nack => rfl
  | arbLost => rfl
  | busError => cases hdrop : s.draw.dropRole <;> simp [FailureUpdate, State.applyFail, hdrop]

/-- A failure reported after the I2C part is written and events are added. -/
theorem failsWith_fails (f : Failure) {before : I2c} {events : List WireEvent} {s u : State}
    (hu : u = { s with i2c := before, wire := s.wire ++ events }) : FailsWith f before events s (u.fails f) := by
  have hdraw : u.draw = s.draw := by rw [hu]; rfl
  have hupdate := failureUpdate_applyFail f u
  rw [hdraw, hu] at hupdate
  refine ⟨by rw [hu]; exact hupdate, ends_finish_i2c .failed ?_⟩
  rw [State.applyFail_eq, hu]
  rfl

/-! ### The first step of a start (43_i2c_master.md R173, R174, R178) -/

theorem Dir.ofCode_field (w : Command) (k : Nat) : Dir.ofCode (field w k 1) = if w.getLsbD k then .r else .w := by
  rw [← ofBool_getLsbD]
  cases w.getLsbD k <;> rfl

section
variable {s : State}

theorem startFirst_of_stale (rest : State → State) (hguard : i2cGuard s = none) (hstale : staleFails s = true) :
    startFirst rest s = s.clearRxTail.finish .failed := by
  simp [startFirst, hguard, hstale]

theorem startFirst_of_clean (rest : State → State) (hguard : i2cGuard s = none) (hclean : staleFails s = false) :
    startFirst rest s = rest s.clearRxTail := by
  simp [startFirst, hguard, hclean]

theorem clearRxTail_eq : s.clearRxTail = { s with i2c := { s.i2c with rxTail := false }, wire := s.wire ++ [] } := by
  rw [List.append_nil]
  rfl

theorem clearRxTail_ends (r : Result) :
    Ends r s.rcc { s.i2c with rxTail := false } [] s (s.clearRxTail.finish r) :=
  ends_finish_i2c r clearRxTail_eq

theorem clearRxTail_continues (p : Position) :
    Continues p s.rcc { s.i2c with rxTail := false } [] s (s.clearRxTail.goOn p) :=
  continues_goOn_i2c p clearRxTail_eq

end

/-- Settles O43: the two rows, and `startFirst` past the guard by the error-pending check. -/
theorem startFirstStep : Obligations.StartFirstStep := by
  refine ⟨fun w => ?_, fun w => ?_, fun a d s hop hclk hinited => ⟨fun hstale => ⟨?_, ?_⟩, fun hclean => ⟨?_, ?_⟩⟩⟩
  · dsimp only
    rw [← Dir.ofCode_field]
    exact decodesTo_row 12 (by decide) w
  · dsimp only
    rw [← Dir.ofCode_field]
    exact decodesTo_row 13 (by decide) w
  all_goals have hguard := (i2cGuard_none s).mpr ⟨hclk, hinited⟩
  · rw [exec_i2cStart_first a d hop, startFirst_of_stale _ hguard hstale]
    exact ⟨_, rfl, clearRxTail_ends _⟩
  · rw [exec_i2cRestart_first a d hop, startFirst_of_stale _ hguard hstale]
    exact ⟨_, rfl, clearRxTail_ends _⟩
  · rw [exec_i2cStart_first a d hop, startFirst_of_clean _ hguard hclean]
    exact ⟨_, rfl, clearRxTail_continues _⟩
  · rw [exec_i2cRestart_first a d hop, startFirst_of_clean _ hguard hclean]
    exact ⟨_, rfl, clearRxTail_continues _⟩

/-! ### Start generation and the address byte (43_i2c_master.md R172) -/

theorem exec_busWait {i : Instr} {a : BitVec 7} {d : Dir} {s : State} (hi : i = .i2cStart a d ∨ i = .i2cRestart a d)
    (hop : s.host.op = some (.busWait a d)) : exec i s = .next (startGeneration false a d s) := by
  obtain rfl | rfl := hi
  · exact exec_i2cStart_busWait hop
  · simp only [exec, execI2cRestart, hop]

theorem exec_repStart {a : BitVec 7} {d : Dir} {s : State} (hop : s.host.op = some (.repStart a d)) :
    exec (.i2cRestart a d) s = .next (startGeneration true a d s) := by
  simp only [exec, execI2cRestart, hop]

theorem exec_addrPhase {i : Instr} {rep : Bool} {a : BitVec 7} {d : Dir} {s : State}
    (hi : i = .i2cStart a d ∨ i = .i2cRestart a d) (hop : s.host.op = some (.addrPhase rep a d)) :
    exec i s = .next (addressByte a d s) := by
  obtain rfl | rfl := hi
  · simp only [exec, execI2cStart, hop]
  · simp only [exec, execI2cRestart, hop]

section
variable {rep : Bool} {a : BitVec 7} {d : Dir} {s : State}

theorem startGeneration_stalls (hfree : rep = false → s.i2c.busy = false) (hdraw : s.draw.start = .stall) :
    startGeneration rep a d s = s.hang .stall := by
  cases rep <;> simp_all [startGeneration]

theorem startGeneration_fails (hfree : rep = false → s.i2c.busy = false) {e : BusErr} (hdraw : s.draw.start = .fail e) :
    startGeneration rep a d s = (s.emit (.fail e)).fails (failureOfErr e) := by
  cases rep <;> simp_all [startGeneration]

theorem startGeneration_ok (hfree : rep = false → s.i2c.busy = false) (hdraw : s.draw.start = .ok) :
    startGeneration rep a d s =
      ((s.emit (if rep then .repStart else .start)).takeBus d).goOn (.addrPhase rep a d) := by
  cases rep <;> simp_all [startGeneration]

end

/-- Settles O44: a plain start waits while the bus is busy; else, for both kinds, the draw decides. -/
theorem startGeneration_step_rule : Obligations.StartGeneration := by
  refine ⟨fun i a d s hi hop => ⟨fun hbusy => ?waits, fun hfree => ⟨fun hd => ?stalls, fun e hd => ?fails,
    fun hd => ?starts⟩⟩, fun a d s hop => ⟨fun hd => ?repStalls, fun e hd => ?repFails, fun hd => ?repStarts⟩⟩
  case waits => rw [exec_busWait hi hop, startGeneration_of_busy a d hbusy]
  case stalls =>
    rw [exec_busWait hi hop, startGeneration_stalls (fun _ => hfree) hd]
    rfl
  case fails =>
    rw [exec_busWait hi hop, startGeneration_fails (fun _ => hfree) hd]
    exact ⟨_, rfl, failsWith_fails _ rfl⟩
  case starts =>
    rw [exec_busWait hi hop, startGeneration_ok (fun _ => hfree) hd]
    exact ⟨_, rfl, continues_goOn_i2c _ rfl⟩
  case repStalls =>
    rw [exec_repStart hop, startGeneration_stalls (rep := true) nofun hd]
    rfl
  case repFails =>
    rw [exec_repStart hop, startGeneration_fails (rep := true) nofun hd]
    exact ⟨_, rfl, failsWith_fails _ rfl⟩
  case repStarts =>
    rw [exec_repStart hop, startGeneration_ok (rep := true) nofun hd]
    exact ⟨_, rfl, continues_goOn_i2c _ rfl⟩

/-- Settles O45: the three kinds of answer. -/
theorem addressPhaseByte : Obligations.AddressPhaseByte := by
  refine fun i rep a d s hi hop => ⟨fun hd => ?acked, fun r f hd hf => ?fails, fun hd => ?stalls⟩
  all_goals rw [exec_addrPhase hi hop]
  case acked =>
    simp only [addressByte, hd, failureOfResp]
    exact ⟨_, rfl, ends_finish_i2c _ rfl⟩
  case fails =>
    simp only [addressByte, hd, hf]
    exact ⟨_, rfl, failsWith_fails _ rfl⟩
  case stalls =>
    simp only [addressByte, hd]
    rfl

/-! ### The first step of a transfer (43_i2c_master.md R175, R176, 60_exceptions.md R234) -/

section
variable {against : Dir} {p : Position} {buf len : Nat} {s : State}

theorem transferFirst_of_overrun (hguard : i2cGuard s = none) (hbuf : Memory.size < buf + len) :
    transferFirst against p buf len s = s.raise .bufferRange := by
  simp [transferFirst, hguard, bufferOverruns, hbuf]

theorem transferFirst_of_mismatch (hguard : i2cGuard s = none) (hbuf : buf + len ≤ Memory.size)
    (hrole : s.i2c.role = .master against) : transferFirst against p buf len s = s.raise .directionMismatch := by
  simp [transferFirst, hguard, bufferOverruns, Nat.not_lt.mpr hbuf, hrole]

theorem transferFirst_of_stale (hguard : i2cGuard s = none) (hbuf : buf + len ≤ Memory.size)
    (hrole : s.i2c.role ≠ .master against) (hstale : staleFails s = true) :
    transferFirst against p buf len s = s.clearRxTail.finish .failed := by
  simp [transferFirst, hguard, bufferOverruns, Nat.not_lt.mpr hbuf, hrole, hstale]

theorem transferFirst_of_empty (hguard : i2cGuard s = none) (hbuf : buf + len ≤ Memory.size)
    (hrole : s.i2c.role ≠ .master against) (hclean : staleFails s = false) (hlen : len = 0) :
    transferFirst against p buf len s = s.clearRxTail.finish .ok := by
  subst hlen
  have hover : ¬ Memory.size < buf := Nat.not_lt.mpr hbuf
  simp [transferFirst, hguard, bufferOverruns, hover, hrole, hclean]

theorem transferFirst_of_idle (hguard : i2cGuard s = none) (hbuf : buf + len ≤ Memory.size)
    (hclean : staleFails s = false) (hlen : 0 < len) (hidle : s.i2c.role = .idle) :
    transferFirst against p buf len s = s.clearRxTail.hang .noTransaction := by
  simp [transferFirst, hguard, bufferOverruns, Nat.not_lt.mpr hbuf, hidle, hclean, Nat.ne_of_gt hlen]

theorem transferFirst_of_open (hguard : i2cGuard s = none) (hbuf : buf + len ≤ Memory.size)
    (hrole : s.i2c.role ≠ .master against) (hclean : staleFails s = false) (hlen : 0 < len)
    (hidle : s.i2c.role ≠ .idle) : transferFirst against p buf len s = s.clearRxTail.goOn p := by
  simp [transferFirst, hguard, bufferOverruns, Nat.not_lt.mpr hbuf, hrole, hidle, hclean, Nat.ne_of_gt hlen]

end

/-- Settles O48: the two rows, and `transferFirst` branch by branch. -/
theorem transferFirstStep : Obligations.TransferFirstStep := by
  refine ⟨decodesTo_row 14 (by decide), decodesTo_row 15 (by decide), fun i against p buf len s hi hop hclk hinited => ?_⟩
  have hguard := (i2cGuard_none s).mpr ⟨hclk, hinited⟩
  have hexec : exec i s = .next (transferFirst against p buf len s) := by
    obtain ⟨rfl, rfl, rfl⟩ | ⟨rfl, rfl, rfl⟩ := hi
    · exact exec_i2cWrite_first buf len hop
    · exact exec_i2cRead_first buf len hop
  rw [hexec]
  refine ⟨fun hbuf => ?overrun, fun hbuf hrole => ?mismatch, fun hbuf hrole => ⟨fun hstale => ?stale,
    fun hclean => ⟨fun hlen => ?empty, fun hlen hidle => ?hangs, fun hlen hidle => ?opens⟩⟩⟩
  case overrun =>
    rw [transferFirst_of_overrun hguard hbuf]
    rfl
  case mismatch =>
    rw [transferFirst_of_mismatch hguard hbuf hrole]
    rfl
  case stale => exact ⟨_, congrArg _ (transferFirst_of_stale hguard hbuf hrole hstale), clearRxTail_ends _⟩
  case empty => exact ⟨_, congrArg _ (transferFirst_of_empty hguard hbuf hrole hclean hlen), clearRxTail_ends _⟩
  case hangs =>
    rw [transferFirst_of_idle hguard hbuf hclean hlen hidle]
    rfl
  case opens => exact ⟨_, congrArg _ (transferFirst_of_open hguard hbuf hrole hclean hlen hidle), clearRxTail_continues _⟩

/-! ### The error-pending check (43_i2c_master.md R178) -/

/-- What the check and what follows it leave: the tail mark clear, and either the failure or the operation's next step,
the wait of a transfer with no transaction, or Ok. -/
structure AfterCheck (s t : State) : Prop where
  tail : t.i2c.rxTail = false
  stale : staleFails s = true → Ends .failed s.rcc { s.i2c with rxTail := false } [] s t
  clean : staleFails s = false → t.host.op ≠ none ∨ t.host.hung = some .noTransaction ∨ Returned .ok s t

theorem startFirst_afterCheck {rest : State → State} {s : State} (hrest : ∀ u, ∃ p, rest u = u.goOn p)
    (hguard : i2cGuard s = none) : AfterCheck s (startFirst rest s) := by
  cases hs : staleFails s with
  | true =>
    rw [startFirst_of_stale rest hguard hs]
    exact ⟨rfl, fun _ => clearRxTail_ends _, fun h => nomatch hs.symm.trans h⟩
  | false =>
    obtain ⟨p, hp⟩ := hrest s.clearRxTail
    rw [startFirst_of_clean rest hguard hs, hp]
    exact ⟨rfl, fun h => (nomatch hs.symm.trans h), fun _ => .inl nofun⟩

theorem transferFirst_afterCheck {against : Dir} {p : Position} {buf len : Nat} {s : State}
    (hnone : (transferFirst against p buf len s).refused = none) :
    AfterCheck s (transferFirst against p buf len s) := by
  obtain ⟨reason, h⟩ | ⟨-, -, -, ⟨hs, h⟩ | ⟨hs, -, h⟩ | ⟨hs, -, -, h⟩ | ⟨hs, -, -, h⟩⟩ :=
    transferFirst_cases against p buf len s <;> rw [h] at hnone ⊢
  · cases hnone
  · exact ⟨rfl, fun _ => clearRxTail_ends _, fun h => nomatch hs.symm.trans h⟩
  · exact ⟨rfl, fun h => (nomatch hs.symm.trans h), fun _ => .inr (.inr (clearRxTail_ends .ok).returned)⟩
  · exact ⟨rfl, fun h => (nomatch hs.symm.trans h), fun _ => .inr (.inl rfl)⟩
  · exact ⟨rfl, fun h => (nomatch hs.symm.trans h), fun _ => .inl nofun⟩

theorem exec_i2cStop_returns (s : State) : ∃ t, exec .i2cStop s = .next t ∧ Returned .ok s t := by
  obtain ⟨-, hstop⟩ := sendStop
  obtain ⟨hclosed, hopened⟩ := hstop s
  by_cases h : i2cClk s = false ∨ s.i2c.inited = false ∨ s.i2c.role = .idle
  · obtain ⟨t, ht, hends⟩ := hclosed h
    exact ⟨t, ht, hends.returned⟩
  · simp only [not_or, Bool.not_eq_false] at h
    obtain ⟨hclk, hinited, hrole⟩ := h
    obtain ⟨t, ht, hends⟩ := hopened hclk hinited hrole
    exact ⟨t, ht, hends.returned⟩

/-- Settles O47: the check in the two shared first steps; Initialize and Stop have none. -/
theorem errorPendingCheck : Obligations.ErrorPendingCheck := by
  obtain ⟨-, -, hinit⟩ := admissionGuard
  refine ⟨fun i s t hop hclk hinited _ hi h hnone => ?_, fun freq own am s hclk hrole => ?_, exec_i2cStop_returns⟩
  · have hcheck : AfterCheck s t := by
      obtain ⟨rest, hrest, hs⟩ | ⟨against, p, buf, len, hs⟩ := exec_guarded_first hop hi
      · obtain rfl := Host.Outcome.next.inj (hs.symm.trans h)
        exact startFirst_afterCheck hrest ((i2cGuard_none s).mpr ⟨hclk, hinited⟩)
      · obtain rfl := Host.Outcome.next.inj (hs.symm.trans h)
        exact transferFirst_afterCheck hnone
    refine ⟨hcheck.tail, fun herr hdraw => hcheck.stale ?_, fun hno => hcheck.clean ?_⟩
    · rw [staleFails, herr, hdraw]
      rfl
    · rcases hno with h | h <;> simp [staleFails, h]
  · obtain ⟨-, hok⟩ := hinit freq own am s
    obtain ⟨t, ht, hreturned, -⟩ := hok hclk hrole
    exact ⟨t, ht, hreturned⟩

/-! ### The byte steps (43_i2c_master.md R175, R176) -/

theorem exec_txPhase {buf len b n k : Nat} {s : State} (hop : s.host.op = some (.txPhase b n k)) :
    exec (.i2cWrite buf len) s = sendByte b n k s := by
  simp only [exec, execI2cWrite, hop]

theorem exec_rxPhase {buf len b n k : Nat} {s : State} (hop : s.host.op = some (.rxPhase b n k)) :
    exec (.i2cRead buf len) s = receiveByte b n k s := by
  simp only [exec, execI2cRead, hop]

section
variable {buf len k : Nat} {s : State}

theorem sendByte_acked (ha : buf + k < Memory.size) (hd : s.draw.tx = .answer .ack) (hk : k + 1 < len) :
    sendByte buf len k s =
      .next ((s.emit (.tx (s.byteAt (buf + k)) .ack)).goOn (.txPhase buf len (k + 1))) := by
  simp [sendByte, State.memRead_some s _ ha, byteSent, hd, failureOfResp, Nat.not_le.mpr hk]

theorem sendByte_acked_last (ha : buf + k < Memory.size) (hd : s.draw.tx = .answer .ack) (hk : k + 1 = len) :
    sendByte buf len k s = .next ((s.emit (.tx (s.byteAt (buf + k)) .ack)).finish .ok) := by
  simp [sendByte, State.memRead_some s _ ha, byteSent, hd, failureOfResp, hk.ge]

theorem sendByte_failed (ha : buf + k < Memory.size) {r : TxResp} {f : Failure} (hd : s.draw.tx = .answer r)
    (hf : failureOfResp r = some f) :
    sendByte buf len k s = .next ((s.emit (.tx (s.byteAt (buf + k)) r)).fails f) := by
  simp [sendByte, State.memRead_some s _ ha, byteSent, hd, hf]

theorem sendByte_stalled (ha : buf + k < Memory.size) (hd : s.draw.tx = .stall) :
    sendByte buf len k s = .next (s.hang .stall) := by
  simp [sendByte, State.memRead_some s _ ha, byteSent, hd]

theorem not_decide_le_succ : (!decide (len ≤ k + 1)) = decide (k + 1 < len) := by
  rw [← decide_not]
  exact decide_eq_decide.mpr (by omega)

theorem wireAck_last (s : State) : wireAck true s = (s.params.rxTailRace && s.draw.lastAck) := by
  cases h : s.params.rxTailRace <;> simp [wireAck, h]

theorem receiveByte_data {v : Byte} (ha : buf + k < Memory.size) (hd : s.draw.rx = .data v) (hk : k + 1 < len) :
    receiveByte buf len k s = .next ((s.received buf len k v).goOn (.rxPhase buf len (k + 1))) := by
  obtain ⟨t, ht, hcases⟩ := receiveByte_cases buf len k s ha
  rw [ht]
  obtain ⟨h, -⟩ | ⟨e, h, -⟩ | ⟨w, -, h, -⟩ | ⟨w, h, -, rfl⟩ := hcases
  · cases hd.symm.trans h
  · cases hd.symm.trans h
  · omega
  · cases hd.symm.trans h
    rfl

theorem receiveByte_data_last {v : Byte} (ha : buf + k < Memory.size) (hd : s.draw.rx = .data v) (hk : k + 1 = len) :
    receiveByte buf len k s = .next (((s.received buf len k v).setRxTail (wireAck true s)).finish .ok) := by
  obtain ⟨t, ht, hcases⟩ := receiveByte_cases buf len k s ha
  rw [ht]
  obtain ⟨h, -⟩ | ⟨e, h, -⟩ | ⟨w, h, -, rfl⟩ | ⟨w, -, h, -⟩ := hcases
  · cases hd.symm.trans h
  · cases hd.symm.trans h
  · cases hd.symm.trans h
    rfl
  · omega

theorem receiveByte_failed {e : BusErr} (hd : s.draw.rx = .fail e) :
    receiveByte buf len k s = .next (((s.setAck (decide (k + 1 < len))).emit (.fail e)).fails (failureOfErr e)) := by
  simp only [receiveByte, hd, not_decide_le_succ]

theorem receiveByte_stalled (hd : s.draw.rx = .stall) :
    receiveByte buf len k s = .next ((s.setAck (decide (k + 1 < len))).hang .stall) := by
  simp only [receiveByte, hd, not_decide_le_succ]

/-- The received byte is in memory, and no other byte has changed. -/
theorem stored_of_put {t : State} {v : Byte} (hmem : s.host.mem.wf)
    (hput : t.host.mem = s.host.mem.put (buf + k) v) (hval : t.host.val = s.host.val)
    (hhung : t.host.hung = s.host.hung) (hrefused : t.refused = s.refused) (hprog : t.prog = s.prog)
    (hparams : t.params = s.params) (henv : t.env = s.env) : Stored (buf + k) v s t where
  val := hval
  bytes x := by rw [State.byteAt, hput]; exact Memory.byte_put _ _ _ _ hmem.1
  hung := hhung
  refused := hrefused
  prog := hprog
  params := hparams
  env := henv

end

/-- Settles O49: the four kinds of answer to a byte inside host memory. -/
theorem writeByteStep : Obligations.WriteByteStep := by
  intro buf len k s hop hk hbuf
  have ha : buf + k < Memory.size := Nat.lt_of_lt_of_le (by omega) hbuf
  rw [exec_txPhase hop]
  refine ⟨fun hd hmore => ?acked, fun hd hlast => ?last, fun r f hd hf => ?fails, fun hd => ?stalls⟩
  case acked => exact ⟨_, sendByte_acked ha hd hmore, continues_goOn_i2c _ rfl⟩
  case last => exact ⟨_, sendByte_acked_last ha hd hlast, ends_finish_i2c _ rfl⟩
  case fails => exact ⟨_, sendByte_failed ha hd hf, failsWith_fails _ rfl⟩
  case stalls => exact sendByte_stalled ha hd

/-- Settles O50: a byte before the last and the last one are stored, and a failure or a stall stores nothing. -/
theorem readByteStep : Obligations.ReadByteStep := by
  intro buf len k s hop hk hbuf hmem
  have ha : buf + k < Memory.size := Nat.lt_of_lt_of_le (by omega) hbuf
  rw [exec_rxPhase hop]
  refine ⟨fun v hd hmore => ?data, fun v hd hlast => ?last, fun e hd => ?fails, fun hd => ?stalls⟩
  case data =>
    have hmid : decide (len ≤ k + 1) = false := decide_eq_false (by omega)
    refine ⟨_, receiveByte_data ha hd hmore, rfl, rfl, rfl, rfl, rfl, ?_, ?_,
      stored_of_put hmem rfl rfl rfl rfl rfl rfl rfl⟩
    · simp only [State.goOn_i2c, State.received, hmid]
      rfl
    · simp only [State.goOn_wire, State.received_wire, hmid]
      rfl
  case last =>
    have hend : decide (len ≤ k + 1) = true := decide_eq_true (by omega)
    refine ⟨_, receiveByte_data_last ha hd hlast, ⟨rfl, rfl, rfl, rfl⟩, rfl, ?_, ?_,
      stored_of_put hmem rfl rfl rfl rfl rfl rfl rfl⟩
    · simp only [State.finish_i2c, State.received, hend, wireAck_last]
      rfl
    · simp only [State.finish_wire, State.setRxTail_wire, State.received_wire, hend, wireAck_last]
  case fails => exact ⟨_, receiveByte_failed hd, failsWith_fails _ rfl⟩
  case stalls =>
    rw [receiveByte_stalled hd]
    rfl

end Sys2Proof.Machine

namespace Sys2Proof.Machine

/-! ### Runs of one operation (44_autonomous_steps.md R213) -/

/-- The host runs `i`, and the choices `cs` come next. -/
structure Runs (i : Instr) (cs : List Choice) (s : State) : Prop where
  hostRuns : s.hostRuns = true
  current : s.current = some i
  script : s.env.script = cs

/-- The host stands at the same operation, and nothing new stops it. -/
structure SameTask (s t : State) : Prop where
  pc : t.host.pc = s.host.pc
  status : t.host.status = s.host.status
  hung : t.host.hung = s.host.hung
  refused : t.refused = s.refused
  prog : t.prog = s.prog

theorem SameTask.refl (s : State) : SameTask s s := ⟨rfl, rfl, rfl, rfl, rfl⟩

theorem SameTask.trans {s t u : State} (h : SameTask s t) (h' : SameTask t u) : SameTask s u where
  pc := h'.pc.trans h.pc
  status := h'.status.trans h.status
  hung := h'.hung.trans h.hung
  refused := h'.refused.trans h.refused
  prog := h'.prog.trans h.prog

theorem SameTask.advance {s t : State} (h : SameTask s t) : SameTask s t.advance :=
  ⟨h.pc, h.status, h.hung, h.refused, h.prog⟩

theorem Continues.sameTask {p : Position} {rcc : Rcc} {i2c : I2c} {events : List WireEvent} {s t : State}
    (h : Continues p rcc i2c events s t) : SameTask s t :=
  ⟨h.pc, h.status, h.rest.hung, h.rest.refused, h.rest.prog⟩

theorem SameTask.envMove (m : Move) (s : State) : SameTask s (envMove m s) := by
  constructor <;> simp

/-- The host rule for the end of a run, where the states between stand at the same operation. -/
theorem Returned.of_sameTask {r : Result} {s u t : State} (h : SameTask s u) (hu : Returned r u t) :
    Returned r s t where
  res := hu.res
  op := hu.op
  pc := by rw [← h.pc]; exact hu.pc
  status := by rw [← h.pc, ← h.status, ← h.prog]; exact hu.status

theorem Returned.advance {r : Result} {s t : State} (h : Returned r s t) : Returned r s t.advance :=
  ⟨h.res, h.op, h.pc, h.status⟩

theorem Runs.of {i : Instr} {cs : List Choice} {s : State} (hcur : s.current = some i)
    (hrun : s.host.status = .running) (hrefused : s.refused = none) (hhung : s.host.hung = none)
    (hscript : s.env.script = cs) : Runs i cs s :=
  ⟨s.hostRuns_iff.mpr ⟨hrun, hrefused, hhung⟩, hcur, hscript⟩

theorem Runs.status {i : Instr} {cs : List Choice} {s : State} (h : Runs i cs s) : s.host.status = .running :=
  (s.hostRuns_iff.mp h.hostRuns).1

/-- After one step at the same operation the remaining choices come next. -/
theorem Runs.next {i : Instr} {c : Choice} {cs : List Choice} {s t : State} (h : Runs i (c :: cs) s)
    (ht : SameTask s t) (henv : t.env = s.env) : Runs i cs t.advance where
  hostRuns := by
    obtain ⟨hrun, hrefused, hhung⟩ := s.hostRuns_iff.mp h.hostRuns
    exact t.advance.hostRuns_iff.mpr ⟨ht.status.trans hrun, ht.refused.trans hrefused, ht.hung.trans hhung⟩
  current := (State.current_congr ht.prog ht.pc).trans h.current
  script := by rw [State.advance_script, henv, h.script, List.tail_cons]

theorem Runs.draw {i : Instr} {c : Choice} {cs : List Choice} {s : State} (h : Runs i (c :: cs) s) :
    s.draw = c.draw := congrArg Choice.draw (State.choice_of_script h.script)

/-- In the host's turn the step is the operation's. -/
theorem Runs.step {i : Instr} {c : Choice} {cs : List Choice} {s t : State} (h : Runs i (c :: cs) s)
    (hc : c.move = none) (hexec : exec i s = .next t) : step s = .next t.advance := by
  have hm : s.choice.move = none := by rw [State.choice_of_script h.script, hc]
  rw [step_of_current hm h.hostRuns h.current, hexec]
  rfl

theorem run_one {s t : State} (h : step s = .next t) : Host.Core.run Sys2Proof.core 1 s = .next t :=
  run_succ_of_step 0 h

theorem run_add {s u : State} (m n : Nat) (h : Host.Core.run Sys2Proof.core m s = .next u) :
    Host.Core.run Sys2Proof.core (m + n) s = Host.Core.run Sys2Proof.core n u := by
  induction m generalizing s with
  | zero =>
    obtain rfl := Host.Outcome.next.inj h
    rw [Nat.zero_add]
  | succ m ih =>
    cases hs : step s with
    | next v =>
      rw [run_succ_of_step m hs] at h
      rw [Nat.add_right_comm, run_succ_of_step _ hs, ih h]
    | fault r =>
      have hstep : Sys2Proof.core.step s = .fault r := hs
      simp only [Host.Core.run, hstep] at h
      cases h
    | refused r =>
      have hstep : Sys2Proof.core.step s = .refused r := hs
      simp only [Host.Core.run, hstep] at h
      cases h

/-! ### The polls of SetClockState (40_rcc_clock.md, corner case "Poll count") -/

/-- How many of the choices give the host the turn. -/
def hostTurns (cs : List Choice) : Nat := (cs.filter fun c => c.move.isNone).length

theorem hostTurns_cons_host {c : Choice} (cs : List Choice) (h : c.move = none) :
    hostTurns (c :: cs) = hostTurns cs + 1 := by
  simp [hostTurns, h]

theorem hostTurns_cons_move {c : Choice} {m : Move} (cs : List Choice) (h : c.move = some m) :
    hostTurns (c :: cs) = hostTurns cs := by
  simp [hostTurns, h]

@[simp] theorem envMove_on (m : Move) (s : State) : (envMove m s).rcc.on = s.rcc.on := by
  unfold envMove
  split
  · cases m <;> rfl
  · rfl

/-- Without a rise of its own, the flag of a source that is on and not ready stays clear. -/
theorem envMove_keeps_not_ready {m : Move} {s : State} {x : Src} (hm : m ≠ .readyRises x)
    (hon : s.rcc.on.get x = true) (hrdy : s.rcc.rdy.get x = false) : (envMove m s).rcc.rdy.get x = false := by
  by_contra hne
  obtain ⟨hrise, -⟩ | ⟨-, hoff⟩ := envMove_rdy (m := m) (s := s) (x := x) fun h => hne (h.trans hrdy)
  · exact hm hrise
  · exact nomatch hon.symm.trans hoff

section
variable {x : Src} {rest : List Choice}

/-- A host that has stopped leaves the source as the polls left it. -/
theorem stopped_run (cs : List Choice) {s : State} (hstopped : s.hostRuns = false)
    (hscript : s.env.script = cs ++ rest) (hno : ∀ c ∈ cs, c.move ≠ some (.readyRises x))
    (hon : s.rcc.on.get x = true) (hrdy : s.rcc.rdy.get x = false) :
    ∃ t, Host.Core.run Sys2Proof.core cs.length s = .next t ∧ t.host = s.host ∧ t.rcc.on.get x = true ∧
      t.rcc.rdy.get x = false ∧ t.rcc.clk = s.rcc.clk := by
  induction cs generalizing s with
  | nil => exact ⟨s, rfl, rfl, hon, hrdy, rfl⟩
  | cons c cs ih =>
    obtain ⟨hc, hcs⟩ := List.forall_mem_cons.mp hno
    cases hm : c.move with
    | none =>
      have hstep := step_of_not_hostRuns ((congrArg Choice.move (State.choice_of_script hscript)).trans hm) hstopped
      obtain ⟨t, ht, hrest⟩ := ih (s := s.advance) hstopped (by simp [hscript]) hcs hon hrdy
      exact ⟨t, (run_succ_of_step _ hstep).trans ht, hrest⟩
    | some m =>
      have hstep := step_of_move ((congrArg Choice.move (State.choice_of_script hscript)).trans hm)
      have hu : (envMove m s).advance.hostRuns = false := by
        simpa only [State.hostRuns, State.advance_host, State.advance_refused, envMove_host, envMove_refused] using
          hstopped
      obtain ⟨t, ht, hhost, hton, htrdy, hclk⟩ := ih hu (by simp [hscript]) hcs (by simpa using hon)
        (envMove_keeps_not_ready (by rintro rfl; exact hc hm) hon hrdy)
      exact ⟨t, (run_succ_of_step _ hstep).trans ht, hhost.trans (envMove_host m s), hton, htrdy,
        hclk.trans (envMove_clk m s)⟩

variable {src : BitVec 3}

/-- From k polls on, without a rise of the flag: each of the host's turns makes one poll, and the last ends with
Timeout. -/
theorem polls_run (cs : List Choice) {k : Nat} {s : State} (h : Runs (.clkState src 1) (cs ++ rest) s)
    (hop : s.host.op = some (.clkPoll x k)) (hon : s.rcc.on.get x = true) (hrdy : s.rcc.rdy.get x = false)
    (hk : k < s.params.ceil) (hno : ∀ c ∈ cs, c.move ≠ some (.readyRises x)) :
    ∃ t, Host.Core.run Sys2Proof.core cs.length s = .next t ∧ t.rcc.on.get x = true ∧ t.rcc.rdy.get x = false ∧
      (k + hostTurns cs < s.params.ceil → t.host.op = some (.clkPoll x (k + hostTurns cs)) ∧
        Runs (.clkState src 1) rest t ∧ SameTask s t) ∧
      (s.params.ceil ≤ k + hostTurns cs → t.rcc.clk.get x = .timedOut ∧ Returned .timeout s t) := by
  induction cs generalizing k s with
  | nil => exact ⟨s, rfl, hon, hrdy, fun _ => ⟨hop, h, .refl s⟩, fun hle => absurd hle (Nat.not_le.mpr hk)⟩
  | cons c cs ih =>
    obtain ⟨hc, hcs⟩ := List.forall_mem_cons.mp hno
    cases hm : c.move with
    | some m =>
      rw [hostTurns_cons_move cs hm]
      have hstep := step_of_move ((congrArg Choice.move (State.choice_of_script h.script)).trans hm)
      have hsame := (SameTask.envMove m s).advance
      obtain ⟨t, ht, hton, htrdy, hmore, hend⟩ := ih (h.next (.envMove m s) (envMove_env m s)) (by simpa using hop)
        (by simpa using hon) (envMove_keeps_not_ready (by rintro rfl; exact hc hm) hon hrdy) (by simpa using hk) hcs
      rw [State.advance_params, envMove_params] at hmore hend
      refine ⟨t, (run_succ_of_step _ hstep).trans ht, hton, htrdy, fun hlt => ?_, fun hle => ?_⟩
      · obtain ⟨htop, hruns, htask⟩ := hmore hlt
        exact ⟨htop, hruns, hsame.trans htask⟩
      · obtain ⟨hclk, hreturned⟩ := hend hle
        exact ⟨hclk, .of_sameTask hsame hreturned⟩
    | none =>
      rw [hostTurns_cons_host cs hm]
      have hexec : exec (.clkState src 1) s = .next (clkPoll x k s) := execClkState_poll src 1 hop
      by_cases hlast : s.params.ceil ≤ k + 1
      · rw [clkPoll_at_ceiling hrdy hlast] at hexec
        obtain ⟨t, ht, hhost, hton, htrdy, hclk⟩ := stopped_run (x := x) (rest := rest) cs
          (s := ((s.setClk x .timedOut).finish .timeout).advance) rfl (by simp [h.script]) hcs hon hrdy
        refine ⟨t, (run_succ_of_step _ (h.step hm hexec)).trans ht, hton, htrdy, fun hlt => by omega, fun _ => ?_⟩
        exact ⟨by simp [hclk], ⟨by rw [hhost]; rfl, by rw [hhost]; rfl, by rw [hhost]; rfl, by rw [hhost]; rfl⟩⟩
      · rw [clkPoll_before_ceiling hrdy (Nat.not_le.mp hlast)] at hexec
        have hsame : SameTask s (s.goOn (.clkPoll x (k + 1))) := ⟨rfl, rfl, rfl, rfl, rfl⟩
        obtain ⟨t, ht, hton, htrdy, hmore, hend⟩ := ih (h.next hsame rfl) rfl hon hrdy (Nat.not_le.mp hlast) hcs
        rw [Nat.add_right_comm] at hmore hend
        refine ⟨t, (run_succ_of_step _ (h.step hm hexec)).trans ht, hton, htrdy, fun hlt => ?_, fun hle => ?_⟩
        · obtain ⟨htop, hruns, htask⟩ := hmore hlt
          exact ⟨htop, hruns, hsame.advance.trans htask⟩
        · obtain ⟨hclk, hreturned⟩ := hend hle
          exact ⟨hclk, .of_sameTask hsame.advance hreturned⟩

end

/-- Settles O27: `polls_run` from the first poll. -/
theorem timeoutAfterExactlyCeilingPolls : Obligations.TimeoutAfterExactlyCeilingPolls := by
  intro src x s cs rest hcur hrun hrefused hhung hop hon hrdy hceil hscript hno
  obtain ⟨t, ht, hton, htrdy, hmore, hend⟩ :=
    polls_run cs (Runs.of hcur hrun hrefused hhung hscript) hop hon hrdy hceil hno
  rw [Nat.zero_add] at hmore hend
  refine ⟨t, ht, hton, htrdy, fun hlt => ?_, hend⟩
  obtain ⟨htop, hruns, -⟩ := hmore hlt
  exact ⟨htop, hruns.status⟩

/-- Settles O28: the polls before the rise by `polls_run`, then the rise, then a poll that sees the flag. -/
theorem readyEndsThePolls : Obligations.ReadyEndsThePolls := by
  intro src x s polls rest d e hcur hrun hrefused hhung hop hon hrdy hpolls hlt hscript
  have hturns : hostTurns polls = polls.length := by
    rw [hostTurns, List.filter_eq_self.mpr fun c hc => by simp [hpolls c hc]]
  obtain ⟨u, hu, huon, hurdy, hmore, -⟩ := polls_run polls (Runs.of hcur hrun hrefused hhung hscript) hop hon hrdy
    (by omega) fun c hc => by simp [hpolls c hc]
  obtain ⟨huop, huruns, hutask⟩ := hmore (by omega)
  have hrise : step u = .next (u.setRdy x true).advance :=
    step_of_enabled_move (m := .readyRises x) (congrArg Choice.move (State.choice_of_script huruns.script))
      (by simp [moveEnabled, huon, hurdy])
  have hsame : SameTask u (u.setRdy x true) := ⟨rfl, rfl, rfl, rfl, rfl⟩
  have hvruns := huruns.next hsame rfl
  have hpoll := (execClkState_poll src 1 (s := (u.setRdy x true).advance) huop).trans
    (congrArg Host.Outcome.next (clkPoll_of_ready _ (PerSrc.get_set_same u.rcc.rdy x true)))
  have hlast := hvruns.step rfl hpoll
  refine ⟨_, (run_add _ 2 hu).trans ((run_succ_of_step 1 hrise).trans (run_one hlast)), ?_, huon, ?_, ?_, ?_⟩
  · exact PerSrc.get_set_same _ x _
  · exact PerSrc.get_set_same u.rcc.rdy x true
  · refine (Returned.of_sameTask (hutask.trans hsame.advance) ?_).advance
    exact returned_finish .ok rfl rfl
  · exact congrArg (fun cs => cs.tail.tail) huruns.script

end Sys2Proof.Machine

namespace Sys2Proof.Machine

/-! ### A whole start (43_i2c_master.md sections 1 and 2) -/

theorem exec_startPosition {i : Instr} {rep : Bool} {a : BitVec 7} {d : Dir} {s : State}
    (hi : i = .i2cStart a d ∨ i = .i2cRestart a d) (hrep : rep = true → i = .i2cRestart a d)
    (hop : s.host.op = some (startPosition rep a d)) : exec i s = .next (startGeneration rep a d s) := by
  cases rep with
  | false => exact exec_busWait hi hop
  | true =>
    obtain rfl := hrep rfl
    exact exec_repStart hop

/-- From the first step on: the start is generated, then the address byte is acknowledged. -/
theorem start_run {i : Instr} {rep : Bool} {a : BitVec 7} {d : Dir} {s t : State} {x y z : Draw} {rest : List Choice}
    (hi : i = .i2cStart a d ∨ i = .i2cRestart a d) (hrep : rep = true → i = .i2cRestart a d)
    (hruns : Runs i ({ move := none, draw := x } :: { move := none, draw := y } :: { move := none, draw := z } :: rest) s)
    (hfirst : exec i s = .next t)
    (hgoes : Continues (startPosition rep a d) s.rcc { s.i2c with rxTail := false } [] s t)
    (hbusy : rep = false → s.i2c.busy = false) (hy : y.start = .ok) (hz : z.tx = .answer .ack) :
    ∃ v, Host.Core.run Sys2Proof.core 3 s = .next v ∧ Returned .ok s v ∧ v.rcc = s.rcc ∧
      v.i2c = { s.i2c with rxTail := false, role := .master d, busy := true } ∧
      v.wire = s.wire ++ [if rep then .repStart else .start, .addr (addrByte a d) .ack] ∧ v.env.script = rest := by
  have htruns := hruns.next hgoes.sameTask hgoes.rest.env
  have hfree : rep = false → t.advance.i2c.busy = false := fun hr => by
    rw [State.advance_i2c, hgoes.i2c]
    exact hbusy hr
  have hstart := exec_startPosition (s := t.advance) hi hrep hgoes.op
  rw [startGeneration_ok hfree (by rw [htruns.draw]; exact hy)] at hstart
  obtain ⟨u, hu, hstarted⟩ : ∃ u, exec i t.advance = .next u ∧
      Continues (.addrPhase rep a d) t.advance.rcc { t.advance.i2c with role := .master d, busy := true }
        [if rep then .repStart else .start] t.advance u :=
    ⟨_, hstart, continues_goOn_i2c _ rfl⟩
  have huruns := htruns.next hstarted.sameTask hstarted.rest.env
  obtain ⟨hacked, -⟩ := addressPhaseByte i rep a d u.advance hi hstarted.op
  obtain ⟨v, hv, hends⟩ := hacked (by rw [huruns.draw]; exact hz)
  refine ⟨v.advance, ?_, ?_, ?_, ?_, ?_, ?_⟩
  · rw [run_succ_of_step 2 (hruns.step rfl hfirst), run_succ_of_step 1 (htruns.step rfl hu)]
    exact run_one (huruns.step rfl hv)
  · exact (Returned.of_sameTask (hgoes.sameTask.advance.trans hstarted.sameTask.advance) hends.returned).advance
  · exact hends.rcc.trans (hstarted.rcc.trans hgoes.rcc)
  · rw [State.advance_i2c, hends.i2c, State.advance_i2c, hstarted.i2c, State.advance_i2c, hgoes.i2c]
  · rw [State.advance_wire, hends.wire, State.advance_wire, hstarted.wire, State.advance_wire, hgoes.wire]
    simp
  · rw [State.advance_script, hends.rest.env]
    exact congrArg List.tail huruns.script

/-- No stale error is drawn. -/
theorem staleFails_eq_false {s : State} {d : Draw} (hdraw : s.draw = d) (h : errPending s = false ∨ d.stale = false) :
    staleFails s = false := by
  rw [staleFails, hdraw]
  rcases h with h | h <;> simp [h]

/-- Settles O54: the first step by `startFirstStep`, the other two by `start_run`. -/
theorem startRunOpensTransaction : Obligations.StartRunOpensTransaction := by
  intro a d s x y z rest hrun hrefused hhung hop hclk hinited hclean hy hz hscript
  have hdraw : s.draw = x := congrArg Choice.draw (State.choice_of_script hscript)
  obtain ⟨-, -, hfirst⟩ := startFirstStep
  obtain ⟨-, hgoes⟩ := hfirst a d s hop hclk hinited
  obtain ⟨⟨t, ht, htgoes⟩, u, hu, hugoes⟩ := hgoes (staleFails_eq_false hdraw hclean)
  refine ⟨fun hcur hidle hbusy => ?plain, fun hcur hrole => ?repeated⟩
  case plain =>
    rw [if_pos hidle] at hugoes
    obtain hcur | hcur := hcur
    · exact start_run (rep := false) (.inl rfl) nofun (Runs.of hcur hrun hrefused hhung hscript) ht htgoes
        (fun _ => hbusy) hy hz
    · exact start_run (rep := false) (.inr rfl) nofun (Runs.of hcur hrun hrefused hhung hscript) hu hugoes
        (fun _ => hbusy) hy hz
  case repeated =>
    rw [if_neg hrole] at hugoes
    exact start_run (rep := true) (.inr rfl) (fun _ => rfl) (Runs.of hcur hrun hrefused hhung hscript) hu hugoes nofun
      hy hz

/-- A transfer that every check lets through goes on to byte 0. -/
theorem transfer_opens {i : Instr} {against : Dir} {p : Position} {buf len : Nat} {s : State}
    (hexec : exec i s = .next (transferFirst against p buf len s)) (hguard : i2cGuard s = none)
    (hbuf : buf + len ≤ Memory.size) (hrole : s.i2c.role ≠ .master against) (hclean : staleFails s = false)
    (hlen : 0 < len) (hidle : s.i2c.role ≠ .idle) :
    ∃ t, exec i s = .next t ∧ Continues p s.rcc { s.i2c with rxTail := false } [] s t :=
  ⟨_, hexec.trans (congrArg _ (transferFirst_of_open hguard hbuf hrole hclean hlen hidle)), clearRxTail_continues p⟩

/-! ### The bytes of a whole MasterWriteData (43_i2c_master.md section 4) -/

/-- The operation goes on from `s` to `u` with the events added to the wire; nothing else changes but its position and
the choices taken. -/
structure Sends (events : List WireEvent) (s u : State) : Prop where
  task : SameTask s u
  rcc : u.rcc = s.rcc
  i2c : u.i2c = s.i2c
  wire : u.wire = s.wire ++ events
  bytes : ∀ a, u.byteAt a = s.byteAt a
  val : u.host.val = s.host.val
  params : u.params = s.params

theorem Sends.refl (s : State) : Sends [] s s :=
  ⟨.refl s, rfl, rfl, (List.append_nil _).symm, fun _ => rfl, rfl, rfl⟩

theorem Sends.trans {events events' : List WireEvent} {s t u : State} (h : Sends events s t)
    (h' : Sends events' t u) : Sends (events ++ events') s u where
  task := h.task.trans h'.task
  rcc := h'.rcc.trans h.rcc
  i2c := h'.i2c.trans h.i2c
  wire := by rw [h'.wire, h.wire, List.append_assoc]
  bytes a := (h'.bytes a).trans (h.bytes a)
  val := h'.val.trans h.val
  params := h'.params.trans h.params

theorem Continues.sends {p : Position} {events : List WireEvent} {s t : State}
    (h : Continues p s.rcc s.i2c events s t) : Sends events s t.advance :=
  ⟨h.sameTask.advance, h.rcc, h.i2c, h.wire, h.rest.bytes, h.rest.val, h.rest.params⟩

/-- The events of the first `n` bytes of a buffer, each acknowledged. -/
def sentBytes (buf n : Nat) (s : State) : List WireEvent :=
  (List.range n).map fun k => .tx (s.byteAt (buf + k)) .ack

theorem sentBytes_succ (buf n : Nat) (s : State) :
    sentBytes buf (n + 1) s = sentBytes buf n s ++ [.tx (s.byteAt (buf + n)) .ack] := by
  simp [sentBytes, List.range_succ]

section
variable {buf len : Nat} {s : State}

/-- From byte 0 on, as many acknowledged bytes as there are draws, and still one to send. -/
theorem ackedBytes_run (draws : List Draw) (rest : List Choice) (hbuf : buf + len ≤ 2 ^ 32)
    (hop : s.host.op = some (.txPhase buf len 0)) (hlen : draws.length < len)
    (hack : ∀ d ∈ draws, d.tx = .answer .ack)
    (h : Runs (.i2cWrite buf len) (draws.map (fun d => { move := none, draw := d }) ++ rest) s) :
    ∃ u, Host.Core.run Sys2Proof.core draws.length s = .next u ∧ Runs (.i2cWrite buf len) rest u ∧
      u.host.op = some (.txPhase buf len draws.length) ∧ Sends (sentBytes buf draws.length s) s u := by
  induction draws using List.reverseRecOn generalizing rest with
  | nil => exact ⟨s, rfl, h, hop, .refl s⟩
  | append_singleton draws d ih =>
    rw [List.length_append, List.length_singleton] at hlen ⊢
    obtain ⟨hacks, hd⟩ := List.forall_mem_append.mp hack
    obtain ⟨u, hu, huruns, huop, husends⟩ := ih ({ move := none, draw := d } :: rest) (by omega) hacks
      (by simpa using h)
    obtain ⟨hacked, -⟩ := writeByteStep buf len draws.length u huop (by omega) hbuf
    obtain ⟨t, ht, hgoes⟩ := hacked (by rw [huruns.draw]; exact hd d (by simp)) hlen
    rw [husends.bytes] at hgoes
    refine ⟨t.advance, (run_add _ 1 hu).trans (run_one (huruns.step rfl ht)), huruns.next hgoes.sameTask hgoes.rest.env,
      hgoes.op, ?_⟩
    rw [sentBytes_succ]
    exact husends.trans hgoes.sends

end

/-- Settles O55: the first step by `transfer_opens`, all bytes but the last by `ackedBytes_run`, and the last. -/
theorem writeRunSendsBufferInOrder : Obligations.WriteRunSendsBufferInOrder := by
  intro buf len s first draws rest hcur hrun hrefused hhung hop hclk hinited hrole hpos hbuf hclean hlength hack hscript
  have hruns := Runs.of hcur hrun hrefused hhung hscript
  obtain ⟨t, ht, hgoes⟩ := transfer_opens (exec_i2cWrite_first buf len hop) ((i2cGuard_none s).mpr ⟨hclk, hinited⟩) hbuf
    (by simp [hrole]) (staleFails_eq_false hruns.draw hclean) hpos (by simp [hrole])
  obtain rfl | ⟨init, last, rfl⟩ := List.eq_nil_or_concat' draws
  · rw [List.length_nil] at hlength
    omega
  rw [List.length_append, List.length_singleton] at hlength
  obtain ⟨hacks, hlastAck⟩ := List.forall_mem_append.mp hack
  have htruns := hruns.next hgoes.sameTask hgoes.rest.env
  rw [List.map_append, List.append_assoc] at htruns
  obtain ⟨u, hu, huruns, huop, husends⟩ := ackedBytes_run (s := t.advance) init _ hbuf hgoes.op (by omega) hacks htruns
  obtain ⟨-, hlast, -⟩ := writeByteStep buf len init.length u huop (by omega) hbuf
  obtain ⟨v, hv, hends⟩ := hlast (by rw [huruns.draw]; exact hlastAck last (by simp)) hlength
  have hbytes : ∀ a, t.advance.byteAt a = s.byteAt a := hgoes.rest.bytes
  refine ⟨v.advance, ?_, ?_, hends.rcc.trans (husends.rcc.trans hgoes.rcc),
    hends.i2c.trans (husends.i2c.trans hgoes.i2c), ?_,
    fun a => (hends.rest.bytes a).trans ((husends.bytes a).trans (hgoes.rest.bytes a)),
    hends.rest.val.trans (husends.val.trans hgoes.rest.val),
    hends.rest.hung.trans (husends.task.hung.trans hgoes.rest.hung),
    hends.rest.refused.trans (husends.task.refused.trans hgoes.rest.refused),
    hends.rest.prog.trans (husends.task.prog.trans hgoes.rest.prog),
    hends.rest.params.trans (husends.params.trans hgoes.rest.params), ?_⟩
  · rw [run_succ_of_step len (hruns.step rfl ht), ← hlength]
    exact (run_add _ 1 hu).trans (run_one (huruns.step rfl hv))
  · exact (Returned.of_sameTask (hgoes.sameTask.advance.trans husends.task) hends.returned).advance
  · rw [State.advance_wire, hends.wire, husends.wire, State.advance_wire, hgoes.wire, husends.bytes, List.append_nil,
      List.append_assoc, ← sentBytes_succ, hlength]
    simp only [sentBytes, hbytes]
  · rw [State.advance_script, hends.rest.env, huruns.script]
    rfl

/-- Settles O56: the acknowledged bytes by `ackedBytes_run`, then the byte that fails. -/
theorem writeRunStopsAtFirstNack : Obligations.WriteRunStopsAtFirstNack := by
  intro buf len s acked nacked rest hcur hrun hrefused hhung hop hlen hbuf hack hnack hscript
  obtain ⟨u, hu, huruns, huop, husends⟩ :=
    ackedBytes_run acked _ hbuf hop hlen hack (Runs.of hcur hrun hrefused hhung hscript)
  obtain ⟨-, -, hfails, -⟩ := writeByteStep buf len acked.length u huop hlen hbuf
  obtain ⟨t, ht, hupdate, hends⟩ := hfails .nack .nack (by rw [huruns.draw]; exact hnack) rfl
  refine ⟨t.advance, (run_add _ 1 hu).trans (run_one (huruns.step rfl ht)),
    (Returned.of_sameTask husends.task hends.returned).advance, hends.rcc.trans husends.rcc, ?_, ?_,
    fun a => (hends.rest.bytes a).trans (husends.bytes a)⟩
  · rw [State.advance_i2c, hupdate, husends.i2c]
  · rw [State.advance_wire, hends.wire, husends.wire, husends.bytes, List.append_assoc]
    rfl

/-! ### The bytes of a whole ReadData (43_i2c_master.md sections 2 and 4) -/

/-- The buffer at `buf` holds the bytes `vs`, and outside it memory reads as in `s`. -/
structure Filled (buf : Nat) (vs : List Byte) (s u : State) : Prop where
  buffer : ∀ k v, vs[k]? = some v → u.byteAt (buf + k) = v
  outside : ∀ a, a < buf ∨ buf + vs.length ≤ a → u.byteAt a = s.byteAt a

/-- Storing the next byte of the buffer. -/
theorem Filled.append {buf : Nat} {vs : List Byte} {v : Byte} {s u t : State} (h : Filled buf vs s u)
    (ht : ∀ x, t.byteAt x = if x = buf + vs.length then v else u.byteAt x) : Filled buf (vs ++ [v]) s t where
  buffer k w hw := by
    rw [ht]
    rcases Nat.lt_trichotomy k vs.length with hk | rfl | hk
    · rw [if_neg (by omega)]
      exact h.buffer k w (by rwa [List.getElem?_append_left hk] at hw)
    · simpa using hw
    · rw [List.getElem?_eq_none (by simp; omega)] at hw
      cases hw
  outside a ha := by
    rw [List.length_append, List.length_singleton] at ha
    rw [ht, if_neg (by omega)]
    exact h.outside a (by omega)

/-- The part of a ReadData of which the bytes `vs` have come, each acknowledged. -/
structure Reads (buf len : Nat) (vs : List Byte) (s u : State) : Prop where
  op : u.host.op = some (.rxPhase buf len vs.length)
  task : SameTask s u
  rcc : u.rcc = s.rcc
  i2c : { u.i2c with ack := false } = { s.i2c with ack := false }
  wire : u.wire = s.wire ++ vs.map (fun v => .rx v true)
  filled : Filled buf vs s u
  mem : u.host.mem.wf
  params : u.params = s.params

theorem readBytes_run {buf len : Nat} {s : State} (draws : List Draw) (vs : List Byte) (rest : List Choice)
    (hbuf : buf + len ≤ 2 ^ 32) (hop : s.host.op = some (.rxPhase buf len 0)) (hmem : s.host.mem.wf)
    (hlen : vs.length < len) (hdata : draws.map (fun d => d.rx) = vs.map .data)
    (h : Runs (.i2cRead buf len) (draws.map (fun d => { move := none, draw := d }) ++ rest) s) :
    ∃ u, Host.Core.run Sys2Proof.core vs.length s = .next u ∧ Runs (.i2cRead buf len) rest u ∧
      Reads buf len vs s u := by
  induction vs using List.reverseRecOn generalizing draws rest with
  | nil =>
    obtain rfl := List.map_eq_nil_iff.mp hdata
    exact ⟨s, rfl, h, hop, .refl s, rfl, rfl, (List.append_nil _).symm, ⟨nofun, fun _ _ => rfl⟩, hmem, rfl⟩
  | append_singleton vs v ih =>
    rw [List.length_append, List.length_singleton] at hlen ⊢
    rw [List.map_append] at hdata
    obtain ⟨init, last, rfl, hinit, hlast⟩ := List.map_eq_append_iff.mp hdata
    obtain ⟨d, rfl, hd⟩ := List.map_eq_singleton_iff.mp hlast
    obtain ⟨u, hu, huruns, hreads⟩ := ih init ({ move := none, draw := d } :: rest) (by omega) hinit (by simpa using h)
    obtain ⟨hmore, -⟩ := readByteStep buf len vs.length u hreads.op (by omega) hbuf hreads.mem
    obtain ⟨t, ht, htop, hpc, hstatus, hres, hrcc, hi2c, hwire, hstored⟩ :=
      hmore v (by rw [huruns.draw]; exact hd) hlen
    have hsame : SameTask u t := ⟨hpc, hstatus, hstored.hung, hstored.refused, hstored.prog⟩
    have hmemt := exec_mem_wf ht hreads.mem
    refine ⟨t.advance, (run_add _ 1 hu).trans (run_one (huruns.step rfl ht)), huruns.next hsame hstored.env, ?_,
      hreads.task.trans hsame.advance, hrcc.trans hreads.rcc, ?_, ?_, hreads.filled.append hstored.bytes, hmemt,
      hstored.params.trans hreads.params⟩
    · rw [State.advance_host, htop, List.length_append, List.length_singleton]
    · rw [State.advance_i2c, hi2c]
      exact hreads.i2c
    · rw [State.advance_wire, hwire, hreads.wire]
      simp

/-- The events of a whole read: every byte acknowledged but the last. -/
theorem readEvents_eq (vs : List Byte) (v : Byte) :
    (vs ++ [v]).mapIdx (fun k w => WireEvent.rx w (decide (k + 1 < vs.length + 1))) =
      vs.map (fun w => .rx w true) ++ [.rx v false] := by
  rw [List.mapIdx_concat]
  congr 1
  · refine List.ext_getElem (by simp) fun k hk _ => ?_
    rw [List.length_mapIdx] at hk
    simp [hk]
  · simp

/-- Settles O57: the first step by `transfer_opens`, all bytes but the last by `readBytes_run`, and the last. -/
theorem readRunFillsBufferInOrder : Obligations.ReadRunFillsBufferInOrder := by
  intro buf len s first draws vs rest hcur hrun hrefused hhung hop hclk hinited hrole hpos hbuf hmem hrace hclean hlength
    hdata hscript
  have hruns := Runs.of hcur hrun hrefused hhung hscript
  obtain ⟨t, ht, hgoes⟩ := transfer_opens (exec_i2cRead_first buf len hop) ((i2cGuard_none s).mpr ⟨hclk, hinited⟩) hbuf
    (by simp [hrole]) (staleFails_eq_false hruns.draw hclean) hpos (by simp [hrole])
  have hmemt := exec_mem_wf ht hmem
  obtain rfl | ⟨init, v, rfl⟩ := List.eq_nil_or_concat' vs
  · rw [List.length_nil] at hlength
    omega
  rw [List.length_append, List.length_singleton] at hlength
  rw [List.map_append] at hdata
  obtain ⟨inits, last, rfl, hinit, hlast⟩ := List.map_eq_append_iff.mp hdata
  obtain ⟨d, rfl, hd⟩ := List.map_eq_singleton_iff.mp hlast
  have htruns := hruns.next hgoes.sameTask hgoes.rest.env
  rw [List.map_append, List.append_assoc] at htruns
  obtain ⟨u, hu, huruns, hreads⟩ := readBytes_run (s := t.advance) inits init _ hbuf hgoes.op hmemt (by omega) hinit htruns
  obtain ⟨-, hdone, -⟩ := readByteStep buf len init.length u hreads.op (by omega) hbuf hreads.mem
  obtain ⟨w, hw, hreturned, hrcc, hi2c, hwire, hstored⟩ := hdone v (by rw [huruns.draw]; exact hd) hlength
  have hnorace : (u.params.rxTailRace && u.draw.lastAck) = false := by
    rw [hreads.params]
    simp [hgoes.rest.params, hrace]
  rw [hnorace] at hi2c hwire
  have hfilled : Filled buf (init ++ [v]) s w :=
    Filled.append ⟨hreads.filled.buffer, fun a ha => (hreads.filled.outside a ha).trans (hgoes.rest.bytes a)⟩
      hstored.bytes
  refine ⟨w.advance, ?_, (Returned.of_sameTask (hgoes.sameTask.advance.trans hreads.task) hreturned).advance,
    hrcc.trans (hreads.rcc.trans hgoes.rcc), ?_, ?_, hfilled.buffer, fun a ha => hfilled.outside a ?_⟩
  · rw [run_succ_of_step len (hruns.step rfl ht), ← hlength]
    exact (run_add _ 1 hu).trans (run_one (huruns.step rfl hw))
  · rw [State.advance_i2c, hi2c]
    refine (congrArg (fun x : I2c => { x with rxTail := false }) hreads.i2c).trans ?_
    rw [State.advance_i2c, hgoes.i2c]
  · rw [State.advance_wire, hwire, hreads.wire, State.advance_wire, hgoes.wire, ← hlength, readEvents_eq,
      ← List.append_assoc, List.append_nil]
  · rw [List.length_append, List.length_singleton]
    omega

end Sys2Proof.Machine
